-- ==== Sys2Proof/Word.lean ====
section
/-! DEFINITION. Sys2Proof/Word.lean: the plain word types of the engine (00_scope.md R11, R12, R16).
An instruction address is a plain `Nat`: `ADDR_WIDTH` is a parameter of the instance (R10), and every operation takes an
address modulo `2^ADDR_WIDTH` (R14). -/

namespace Sys2Proof

/-- A byte of the input window (20_memory.md R45). -/
abbrev Byte := BitVec 8

/-- A 16-bit opcode value (20_memory.md R47). -/
abbrev Op16 := BitVec 16

/-- A 32-bit opcode value, and the `u32` of a descriptor (20_memory.md R48, 10_state.md R24). -/
abbrev Op32 := BitVec 32

/-- A field map: field name to value, in field order (10_state.md R33). -/
abbrev Values := List (String × Int)

end Sys2Proof
end

