-- ==== Sys2Proof/Syntax.lean ====
section
/-! DEFINITION. Sys2Proof/Syntax.lean: the descriptor syntax of the instruction catalog (10_state.md R24 to R26,
30_encoding.md R76, 42_control_flow.md R152) and `Instr`, one constructor per row of the opcode table. -/

namespace Sys2Proof

/-- Encoded length of an instruction: two or four bytes, and no other (30_encoding.md R65). -/
inductive Len
  | two
  | four
deriving DecidableEq, Repr

/-- Operand width of a location byte (41_addressing.md R115). -/
inductive LocWidth
  | w16
  | w32
deriving DecidableEq, Repr

/-- `compatibilityMode` of a descriptor (10_state.md R24). -/
inductive CompatMode
  | mode0
  | mode1
  | any
deriving DecidableEq, Repr

/-- Field kinds (30_encoding.md R76). -/
inductive FieldKind
  | loc16
  | loc32
  | cond
  | rel
  | abs22
  | pma16
  | immU
  | immS
  | immAddr
  | immMmio
  | shift
  | mode8
  | areg
deriving DecidableEq, Repr

/-- A field specification `name, lo, width, kind` (10_state.md R26, 30_encoding.md R71). -/
structure Field where
  name : String
  lo : Nat
  width : Nat
  kind : FieldKind
deriving DecidableEq, Repr

/-- Register names an addressing descriptor or an operand may carry (10_state.md R31).  They are names only. -/
inductive Reg
  | xar (n : BitVec 3)
  | ar (n : BitVec 3)
  | sp
  | br0
  | ah
  | al
  | ph
  | pl
  | th
  | acc
  | p
  | xt
  | arp (n : BitVec 3)
deriving DecidableEq, Repr

/-- One piece of an operand rendering (10_state.md R26): fixed text, a fixed register, a field shown by its
kind, or an auxiliary-register field shown as a post-decremented counter (43_render.md R178 to R187). -/
inductive Part
  | text (t : String)
  | reg (r : Reg)
  | field (name : String)
  | counter (name : String)
deriving DecidableEq, Repr

/-- Control-flow classes (42_control_flow.md R152). -/
inductive CfClass
  | none
  | jumpAbs
  | jumpXbank
  | condRel
  | condXbank
  | callAbs
  | callXbank
  | indBranch
  | indCall
  | ret
  | trap
  | loopWait
  | repeated
deriving DecidableEq, Repr

/-- Base of a PC-relative target (42_control_flow.md R154). -/
inductive RelBase
  | current
  | next
deriving DecidableEq, Repr

/-- One catalog row (10_state.md R24, R26).  `operands` is the ordered list of operand renderings, each a list
of parts. -/
structure Descriptor where
  opcode : Op32
  mask : Op32
  length : Len
  mode : CompatMode := .any
  repeatable : Bool := false
  mnemonic : String
  fields : List Field := []
  operands : List (List Part) := []
  cfClass : CfClass
  relBase : Option RelBase := Option.none
  objSensitive : Bool := false
deriving DecidableEq, Repr

/-- An ordered catalog, indexed from 0 (10_state.md R25). -/
abbrev Catalog := List Descriptor

/-- The instructions of `spec/opcode_table.json`, one constructor per row, in the table's order.  The rows of
`CATALOG_GK` carry their fields.  Of the rows with an open encoding, LOOPZ and LOOPNZ carry the two fields their
rules name (44_catalog.md R226, R227); the others carry the matched opcode value, whose fields are the open
parameter `ENC_*` (R228 to R238). -/
inductive Instr
  /-- R195 -/
  | itrap0
  /-- R196 -/
  | itrap1
  /-- R197 -/
  | aborti
  /-- R198 -/
  | lretr
  /-- R199 -/
  | trap (n : BitVec 5)
  /-- R200 -/
  | iret
  /-- R201 -/
  | lrete
  /-- R202 -/
  | lret
  /-- R203 -/
  | lbXar7
  /-- R204 -/
  | nop
  /-- R205 -/
  | eint
  /-- R206 -/
  | clrc (mode : BitVec 8)
  /-- R207 -/
  | dint
  /-- R208 -/
  | setc (mode : BitVec 8)
  /-- R209 -/
  | sb (cond : BitVec 4) (off8 : BitVec 8)
  /-- R210 -/
  | rptImm (imm8 : BitVec 8)
  /-- R211 -/
  | rptLoc (loc : Byte)
  /-- R212 -/
  | movlAccLoc (loc : Byte)
  /-- R213 -/
  | movAlLoc (loc : Byte)
  /-- R214 -/
  | movAhLoc (loc : Byte)
  /-- R215 -/
  | movLocAl (loc : Byte)
  /-- R216 -/
  | movLocAh (loc : Byte)
  /-- R217 -/
  | addb (imm8 : BitVec 8)
  /-- R218 -/
  | lb (imm22 : BitVec 22)
  /-- R219 -/
  | lc (imm22 : BitVec 22)
  /-- R220 -/
  | ffc (imm22 : BitVec 22)
  /-- R221 -/
  | lcr (imm22 : BitVec 22)
  /-- R222 -/
  | banz (n : BitVec 3) (off16 : BitVec 16)
  /-- R223 -/
  | b (cond : BitVec 4) (off16 : BitVec 16)
  /-- R224 -/
  | movAccImm (shift : BitVec 4) (imm16 : BitVec 16)
  /-- R225 -/
  | inLoc (loc : Byte) (pa : BitVec 16)
  /-- R226 -/
  | loopz (loc : Byte) (imm16 : BitVec 16)
  /-- R227 -/
  | loopnz (loc : Byte) (imm16 : BitVec 16)
  /-- R228 -/
  | rptb (raw : Op32)
  /-- R229 -/
  | xbArp (raw : Op32)
  /-- R230 -/
  | xbCond (raw : Op32)
  /-- R231 -/
  | xcallArp (raw : Op32)
  /-- R232 -/
  | xretc (raw : Op32)
  /-- R233 -/
  | lcXar7 (raw : Op32)
  /-- R234 -/
  | lcrXar (raw : Op32)
  /-- R235 -/
  | sbf (raw : Op32)
  /-- R236 -/
  | bar (raw : Op32)
  /-- R237 -/
  | bf (raw : Op32)
  /-- R238 -/
  | intr (raw : Op32)
deriving DecidableEq, Repr

end Sys2Proof
end

