-- ==== Sys2Proof/Records.lean ====
section
/-! DEFINITION. Sys2Proof/Records.lean: the transient records the operations build and hand out (10_state.md R33 to R36)
and the failure values (60_exceptions.md R251). -/

namespace Sys2Proof

/-- A classified location byte: the 28 forms of 41_addressing.md R117 with the register number, pointer or
offset each form reads from the byte. -/
inductive Loc
  | directDp6 (offset : BitVec 6)
  | directDp7 (offset : BitVec 7)
  | stackNeg6 (offset : BitVec 6)
  | spPostInc
  | spPreDec
  | xarPostInc (n : BitVec 3)
  | xarPreDec (n : BitVec 3)
  | xarIdxAr0 (n : BitVec 3)
  | xarIdxAr1 (n : BitVec 3)
  | xarOff3 (n : BitVec 3) (offset : BitVec 3)
  | arpInd
  | arpPostInc
  | arpPostDec
  | arpPostIncAr0
  | arpPostDecAr0
  | arpBr0PostInc
  | arpBr0PostDec
  | arpSet (ptr : BitVec 3)
  | arpSetPostInc (ptr : BitVec 3)
  | arpSetPostDec (ptr : BitVec 3)
  | arpSetPostIncAr0 (ptr : BitVec 3)
  | arpSetPostDecAr0 (ptr : BitVec 3)
  | arpSetBr0PostInc (ptr : BitVec 3)
  | arpSetBr0PostDec (ptr : BitVec 3)
  | circAr6
  | circXar6Ar1
  | reg16 (r : Reg)
  | reg32 (r : Reg)
deriving DecidableEq, Repr

/-- The `form` values of an addressing descriptor (10_state.md R34, 41_addressing.md R117). -/
inductive Form
  | directDp6
  | directDp7
  | stackNeg6
  | spPostInc
  | spPreDec
  | xarPostInc
  | xarPreDec
  | xarIdxAr0
  | xarIdxAr1
  | xarOff3
  | arpInd
  | arpPostInc
  | arpPostDec
  | arpPostIncAr0
  | arpPostDecAr0
  | arpBr0PostInc
  | arpBr0PostDec
  | arpSet
  | arpSetPostInc
  | arpSetPostDec
  | arpSetPostIncAr0
  | arpSetPostDecAr0
  | arpSetBr0PostInc
  | arpSetBr0PostDec
  | circAr6
  | circXar6Ar1
  | reg16
  | reg32
deriving DecidableEq, Repr

/-- The `index` of an addressing descriptor (10_state.md R34). -/
inductive IndexReg
  | ar0
  | ar1
  | offset3
deriving DecidableEq, Repr

/-- The flat `AddressingDescriptor` record of 10_state.md R34. -/
structure AddressingDescriptor where
  form : Form
  reg : Option Reg := none
  ptr : Option Nat := none
  offset : Option Nat := none
  preInc : Bool := false
  preDec : Bool := false
  postInc : Bool := false
  postDec : Bool := false
  circular : Bool := false
  bitRevBR0 : Bool := false
  indirect : Bool := false
  index : Option IndexReg := none
deriving DecidableEq, Repr

/-- A `DecodedInstruction` (10_state.md R33). -/
structure Decoded where
  desc : Nat
  length : Len
  raw : Op32
  values : Values
  addr : List (String × Loc)
deriving DecidableEq, Repr

/-- A typed edge (10_state.md R35); indirect, return and trap edges carry no target. -/
inductive Edge
  | unconditional (target : Nat)
  | taken (target : Nat)
  | notTaken (target : Nat)
  | call (target : Nat)
  | indirectBranch
  | indirectCall
  | ret
  | trap
deriving DecidableEq, Repr

/-- Token kinds (10_state.md R36, 43_render.md R172). -/
inductive TokenKind
  | marker
  | mnemonic
  | text
  | sep
  | reg
  | intU
  | intS
  | addr
  | mmio
  | cond
  | flag
deriving DecidableEq, Repr

/-- A token: a pair of kind and text (10_state.md R36). -/
structure Token where
  kind : TokenKind
  text : String
deriving DecidableEq, Repr

/-- The four-byte input window `W[0..3]` (20_memory.md R45). -/
structure Window where
  w0 : Byte
  w1 : Byte
  w2 : Byte
  w3 : Byte
deriving DecidableEq, Repr

/-- Failure values with the information each records (60_exceptions.md R251 to R256).  A failure is a returned
value; nothing traps (R250). -/
inductive Failure
  /-- `F_NO_MATCH`, reported by decode. -/
  | noMatch (op16 : Op16) (op32 : Op32)
  /-- `F_ADDR_RESOLVE`, reported by decode: raw opcode, field name, location byte, `AMODE`, width. -/
  | addrResolve (raw : Op32) (field : String) (byte : Byte) (amode : Bool) (width : LocWidth)
  /-- `F_WINDOW_SHORT`, reported by decode: `n`, and `op16` when `n >= 2`. -/
  | windowShort (n : Nat) (op16 : Option Op16)
  /-- `F_RENDER_UNRESOLVED`, reported by render: the field name. -/
  | renderUnresolved (field : String)
  /-- `F_CATALOG_AMBIGUOUS`, reported by catalog validation: the two catalog indices. -/
  | catalogAmbiguous (i j : Nat)
deriving DecidableEq, Repr

/-- The four operations a host calls (INDEX.md; 40_dispatch.md R100, 41_addressing.md R115, 42_control_flow.md R150,
43_render.md R170), and `analyse`, the host's three calls at one address of a sweep (95_test_vectors.md section 8):
decode, then classify and render of the decoded record, each its own step. -/
inductive Call
  | decode (w : Window) (n : Nat) (a : Nat)
  | analyse (w : Window) (n : Nat) (a : Nat)
  | classify (d : Decoded) (a : Nat)
  | render (d : Decoded) (a : Nat)
  | resolve (b : Byte) (width : LocWidth)
deriving DecidableEq, Repr

/-- What a call returns to its caller. -/
inductive Reply
  /-- `Some(DecodedInstruction)` of decode: also what is handed to the IL lifter (10_state.md R33). -/
  | decoded (a : Nat) (d : Decoded)
  /-- `(L, E)` of classify, the set `E` in its canonical order (42_control_flow.md R167). -/
  | classified (a : Nat) (length : Len) (edges : List Edge)
  /-- `Some(tokens)` of render, with the instruction length the listing consumer gets (43_render.md R192). -/
  | rendered (a : Nat) (length : Len) (tokens : List Token)
  /-- `Some(AddressingDescriptor, tokens)` or `None` of resolve (41_addressing.md R115). -/
  | resolved (b : Byte) (width : LocWidth) (answer : Option (AddressingDescriptor × List Token))
  /-- `None(code, info)` of the operation that failed (60_exceptions.md R250). -/
  | failed (a : Nat) (f : Failure)
deriving DecidableEq, Repr

end Sys2Proof
end

