-- ==== Sys2Proof/Config.lean ====
section
/-! DEFINITION. Sys2Proof/Config.lean: the implementation parameters (00_scope.md R10), the configuration word (10_state.md R21,
R22) and the uninterpreted parameters. Their default values are in Sys2Proof/Machine/Variant.lean. -/

namespace Sys2Proof

/-- Which flag the dispatcher's mode filter compares (parameter `DISPATCH_MODE_FLAG`, D1). -/
inductive ModeFlag
  | amode
  | objmode
deriving DecidableEq, Repr

/-- Parameter `ARP_DECOR_PRIORITY` (D23). -/
inductive ArpDecorPriority
  | afterCat5
  | beforeCat5
deriving DecidableEq, Repr

/-- Parameter `DIRECT_MODE1_BITS`, 6 or 7 (D2). -/
inductive DirectMode1Bits
  | six
  | seven
deriving DecidableEq, Repr

/-- The configuration word `CFG`: two one-bit flags, `true` for 1 (10_state.md R21, R22). -/
structure Cfg where
  objmode : Bool
  amode : Bool
deriving DecidableEq, Repr

/-- The scalar parameters of 00_scope.md R10.  `CATALOG` is a field of State, `REL_BASE` an attribute of each
descriptor, `OBJ_EFFECT` the constant below. -/
structure Params where
  addrWidth : Nat
  dispatchFlag : ModeFlag
  uncAsUnconditional : Bool
  xbank : Op32
  arpDecorPriority : ArpDecorPriority
  directMode1Bits : DirectMode1Bits
  spaceWhenNoOperands : Bool
deriving DecidableEq, Repr

/-- The domain of the parameters: `ADDR_WIDTH` is a positive integer (00_scope.md R10). -/
abbrev Params.wf (p : Params) : Prop := 0 < p.addrWidth

/-- Parameter `OBJ_EFFECT(desc)` (10_state.md R21, D21; notes/assumptions/3.md): the value that an object-sensitive
descriptor gives to the field `name`, from `OBJMODE` and the extracted values.  OPEN in the spec, so it has no
body here. -/
opaque Config.objEffect (d : Descriptor) (objmode : Bool) (values : Values) (name : String) : Int

/-- The address shown for a displacement or target field of a descriptor whose class computes no target
(notes/assumptions/12.md): the spec states no address there, so it has no body here. -/
opaque Config.openLabel (d : Descriptor) (name : String) (value : Int) (a : Nat) : Nat

/-- The number shown for the field `name` of a descriptor whose value lies outside its kind
(notes/assumptions/27.md): the spec states no text there, so it has no body here. -/
opaque Config.outsideValue (d : Descriptor) (name : String) (value : Int) : Nat

end Sys2Proof
end

