-- ==== Sys2Proof/Machine/Codec.lean ====
section
/-! DEFINITION. Sys2Proof/Machine/Codec.lean: byte order (20_memory.md R47, R48), address arithmetic (00_scope.md R14), the operand
codec (30_encoding.md R71 to R75) and number texts (43_render.md R188). -/

namespace Sys2Proof

/-- Length in bytes (30_encoding.md R65). -/
def Len.bytes : Len → Nat
  | .two => 2
  | .four => 4

/-! ### Byte order -/

/-- `opcode16 = (W[1], W[0])` (20_memory.md R47). -/
def Window.opcode16 (w : Window) : Op16 := w.w1 ++ w.w0

/-- `opcode32 = (W[1], W[0], W[3], W[2])`, word-swapped (20_memory.md R48). -/
def Window.opcode32 (w : Window) : Op32 := w.w1 ++ w.w0 ++ w.w3 ++ w.w2

/-- The opcode value each pass compares: `opcode16` under a zero high half (30_encoding.md R67), or
`opcode32`. -/
def Window.opcode (w : Window) : Len → Op32
  | .two => w.opcode16.setWidth 32
  | .four => w.opcode32

/-- The bytes of an opcode value of the given length, `W[0]` first (20_memory.md R47, R48). -/
def bytesOf (op : Op32) : Len → List Byte
  | .two => [op.extractLsb' 0 8, op.extractLsb' 8 8]
  | .four => [op.extractLsb' 16 8, op.extractLsb' 24 8, op.extractLsb' 0 8, op.extractLsb' 8 8]

/-- The window of a byte string: its first four bytes, a missing byte read as zero (`n` says how many are
valid, 20_memory.md R45). -/
def Window.ofBytes (bs : List Byte) : Window :=
  ⟨bs.getD 0 0, bs.getD 1 0, bs.getD 2 0, bs.getD 3 0⟩

/-! ### Address arithmetic -/

/-- An address on the `ADDR_WIDTH` lines of a port (00_scope.md R16). -/
def Params.addr (p : Params) (a : Nat) : Nat := a % 2 ^ p.addrWidth

/-- `addr_add(a, d) = (a + d) mod 2^ADDR_WIDTH` (00_scope.md R14). -/
def Params.addrAdd (p : Params) (a : Nat) (d : Int) : Nat :=
  ((a + d) % ((2 ^ p.addrWidth : Nat) : Int)).toNat

/-! ### Operand codec -/

/-- `sext_N(v) = v[N-1:0] - (v[N-1] << N)` (00_scope.md R13).  For `N = 0`, where there is no sign bit, it is 0
(notes/assumptions/30.md). -/
def sext (n : Nat) (v : Nat) : Int :=
  let u := v % 2 ^ n
  if 0 < n ∧ 2 ^ (n - 1) ≤ u then (u : Int) - 2 ^ n else u

/-- Getter: `get_f(op) = (op >> f.lo) & (2^f.width - 1)` (30_encoding.md R71). -/
def Field.get (f : Field) (op : Op32) : Nat := (op.toNat >>> f.lo) &&& (2 ^ f.width - 1)

/-- Setter: `set_f(t, v) = t | ((v & (2^f.width - 1)) << f.lo)` (30_encoding.md R72); it truncates and never
rejects (R74). -/
def Field.set (f : Field) (t : Op32) (v : Nat) : Op32 :=
  t ||| BitVec.ofNat 32 ((v &&& (2 ^ f.width - 1)) <<< f.lo)

/-- The bits a field occupies (30_encoding.md R68). -/
def Field.bits (f : Field) : Op32 := BitVec.ofNat 32 ((2 ^ f.width - 1) <<< f.lo)

/-- The kinds that are read through `sext` (30_encoding.md R75). -/
def FieldKind.signed : FieldKind → Bool
  | .rel => true
  | .immS => true
  | _ => false

/-- The operand width of a location kind (30_encoding.md R76). -/
def FieldKind.locWidth? : FieldKind → Option LocWidth
  | .loc16 => some .w16
  | .loc32 => some .w32
  | _ => none

/-- The kinds whose text is a branch target (43_render.md R181). -/
def FieldKind.isTarget : FieldKind → Bool
  | .rel => true
  | .abs22 => true
  | .pma16 => true
  | _ => false

/-- The value of a field: signed kinds through `sext`, others as `get_f` (30_encoding.md R75). -/
def Field.value (f : Field) (op : Op32) : Int :=
  if f.kind.signed then sext f.width (f.get op) else f.get op

/-- A descriptor's opcode with the given field values set, in field order (30_encoding.md R72, R73: the opcode
is a template with every field clear). -/
def Descriptor.assemble (d : Descriptor) (vals : List Nat) : Op32 :=
  (d.fields.zip vals).foldl (fun t fv => fv.1.set t fv.2) d.opcode

/-! ### Field maps -/

/-- The value a field map gives to a name. -/
def lookupField {α : Type} (m : List (String × α)) (name : String) : Option α :=
  match m with
  | [] => none
  | (k, v) :: rest => if k = name then some v else lookupField rest name

/-- The map that the assignments `m[k] <- v` of a list leave, made in order: the last one of a name wins
(40_dispatch.md R108). -/
def assigned {α : Type} : List (String × α) → List (String × α)
  | [] => []
  | (k, v) :: rest =>
    let m := assigned rest
    if (lookupField m k).isSome then m else (k, v) :: m

/-- The first field of a descriptor whose kind satisfies a test (notes/assumptions/25.md). -/
def Descriptor.fieldOfKind? (d : Descriptor) (k : FieldKind → Bool) : Option Field :=
  d.fields.find? (fun f => k f.kind)

/-- The field specification a name refers to: the last one, whose value the field map holds
(notes/assumptions/25.md). -/
def Descriptor.field? (d : Descriptor) (name : String) : Option Field :=
  d.fields.reverse.find? (fun f => f.name = name)

/-! ### Codes and number texts -/

/-- The numeric value of a failure code (60_exceptions.md R251, D27). -/
def Failure.code : Failure → Nat
  | .noMatch _ _ => 1
  | .addrResolve _ _ _ _ _ => 2
  | .windowShort _ _ => 3
  | .renderUnresolved _ => 4
  | .catalogAmbiguous _ _ => 5

/-- The digits of `n` in a base, most significant first, no leading zeros; `fuel` bounds their number. -/
def digitChars (base : Nat) : Nat → Nat → List Char → List Char
  | 0, _, acc => acc
  | fuel + 1, n, acc =>
    if n < base then Nat.digitChar n :: acc
    else digitChars base fuel (n / base) (Nat.digitChar (n % base) :: acc)

/-- `HEX(v)`: `0x` and the lower-case hexadecimal digits with no leading zeros (43_render.md R188). -/
def hex (v : Nat) : String := "0x" ++ String.ofList (digitChars 16 (v + 1) v [])

/-- `DEC(v)`: the decimal digits with no leading zeros (43_render.md R188). -/
def dec (v : Nat) : String := String.ofList (digitChars 10 (v + 1) v [])

/-- The text of a signed immediate (43_render.md R180). -/
def signedHex (v : Int) : String :=
  if 0 ≤ v then "#" ++ hex v.toNat else "#-" ++ hex (-v).toNat

/-- `CFG` as the packed word: `OBJMODE` in bit 1, `AMODE` in bit 0 (D45).  No operation reads it as a number. -/
def Cfg.word (c : Cfg) : BitVec 2 := BitVec.ofBool c.objmode ++ BitVec.ofBool c.amode

/-- The configuration a packed word stands for (D45). -/
def Cfg.ofWord (w : BitVec 2) : Cfg := ⟨w.getLsbD 1, w.getLsbD 0⟩

end Sys2Proof
end

