-- ==== Sys2Proof/Machine/Flags.lean ====
section
/-! DEFINITION. Sys2Proof/Machine/Flags.lean: the condition table (30_encoding.md R79) and the flag names of a mode mask (R80). The
engine holds no flag and evaluates no condition (10_state.md R37): these are names only. -/

namespace Sys2Proof

/-- The 16 condition names (30_encoding.md R79); a COND field is 4 bits, so only values below 16 are
named by a rule. -/
def condName (v : Nat) : String :=
  match v % 16 with
  | 0 => "NEQ"
  | 1 => "EQ"
  | 2 => "GT"
  | 3 => "GEQ"
  | 4 => "LT"
  | 5 => "LEQ"
  | 6 => "HI"
  | 7 => "HIS"
  | 8 => "LO"
  | 9 => "LOS"
  | 10 => "NOV"
  | 11 => "OV"
  | 12 => "NTC"
  | 13 => "TC"
  | 14 => "NBIO"
  | _ => "UNC"

/-- The condition value named `UNC` (30_encoding.md R79). -/
def condUnc : Nat := 15

/-- The flag names of a mode mask, bit 0 first (30_encoding.md R80). -/
def flagNames : List String := ["SXM", "OVM", "TC", "C", "INTM", "DBGM", "PAGE0", "VMAP"]

/-- The names of the set bits of a mode mask, in ascending bit order (30_encoding.md R80). -/
def modeFlags (m : Nat) : List String :=
  (flagNames.zipIdx.filter (fun fi => m.testBit fi.2)).map (fun fi => fi.1)

/-- The tokens of a flag list: one FLAG token for each name and one SEP token between two names; none for an
empty list (43_render.md R185, D31). -/
def modeTokens (m : Nat) : List Token :=
  ((modeFlags m).map (fun f => (⟨.flag, f⟩ : Token))).intersperse ⟨.sep, ", "⟩

end Sys2Proof
end

