-- ==== Sys2Proof/Machine/Operands.lean ====
section
/-! DEFINITION. Sys2Proof/Machine/Operands.lean: the addressing-mode resolver (41_addressing.md): the location-byte table and its
priority order, and for each form its descriptor record and its display tokens. -/

namespace Sys2Proof

/-- The text of a register name (10_state.md R31). -/
def Reg.name : Reg → String
  | .xar n => "XAR" ++ dec n.toNat
  | .ar n => "AR" ++ dec n.toNat
  | .sp => "SP"
  | .br0 => "BR0"
  | .ah => "AH"
  | .al => "AL"
  | .ph => "PH"
  | .pl => "PL"
  | .th => "TH"
  | .acc => "ACC"
  | .p => "P"
  | .xt => "XT"
  | .arp n => "ARP" ++ dec n.toNat

/-- A `REG` token (43_render.md R178). -/
def Reg.token (r : Reg) : Token := ⟨.reg, r.name⟩

/-- A `TEXT` token. -/
def textToken (t : String) : Token := ⟨.text, t⟩

/-! ### The location-byte table -/

/-- What a row of the table says of a byte: it does not apply, it ends the search in failure (category 8 in
mode 0, 41_addressing.md R136), or it accepts the byte as a form. -/
inductive Verdict
  | skip
  | fail
  | hit (l : Loc)
deriving DecidableEq, Repr

/-- A row with its pattern and its mode and width conditions in one test. -/
def rowIf (c : Bool) (l : Loc) : Verdict := if c then .hit l else .skip

/-- The low register-select or pointer field `n = b[2:0]` (41_addressing.md R117). -/
def locN (b : Byte) : BitVec 3 := b.extractLsb' 0 3

/-- The sub-code `k = b[5:3]` (41_addressing.md R117). -/
def locK (b : Byte) : BitVec 3 := b.extractLsb' 3 3

/-- The 5-bit prefix `b[7:3]`. -/
def locPrefix (b : Byte) : BitVec 5 := b.extractLsb' 3 5

/-- Category 1 (rows 1a, 1b): R118, R119.  `DIRECT_MODE1_BITS` picks the mode-1 pattern. -/
def locCat1 (p : Params) (amode : Bool) (b : Byte) : List Verdict :=
  [ rowIf (!amode && b.extractLsb' 6 2 == 0#2) (.directDp6 (b.extractLsb' 0 6)),
    match p.directMode1Bits with
    | .seven => rowIf (amode && b.extractLsb' 7 1 == 0#1) (.directDp7 (b.extractLsb' 0 7))
    | .six => rowIf (amode && b.extractLsb' 6 2 == 0#2) (.directDp7 ((b.extractLsb' 0 6).setWidth 7)) ]

/-- Category 2 (row 2): R120. -/
def locCat2 (amode : Bool) (b : Byte) : List Verdict :=
  [ rowIf (!amode && b.extractLsb' 6 2 == 1#2) (.stackNeg6 (b.extractLsb' 0 6)) ]

/-- Category 3 (rows 3a, 3b): R121, R122. -/
def locCat3 (b : Byte) : List Verdict :=
  [ rowIf (b == 0xBD#8) .spPostInc, rowIf (b == 0xBE#8) .spPreDec ]

/-- Category 4 (rows 4a to 4d): R123 to R126. -/
def locCat4 (b : Byte) : List Verdict :=
  [ rowIf (locPrefix b == 0b10000#5) (.xarPostInc (locN b)),
    rowIf (locPrefix b == 0b10001#5) (.xarPreDec (locN b)),
    rowIf (locPrefix b == 0b10010#5) (.xarIdxAr0 (locN b)),
    rowIf (locPrefix b == 0b10011#5) (.xarIdxAr1 (locN b)) ]

/-- Category 5 (row 5): R127. -/
def locCat5 (amode : Bool) (b : Byte) : List Verdict :=
  [ rowIf (!amode && b.extractLsb' 6 2 == 3#2) (.xarOff3 (locN b) (locK b)) ]

/-- Category 6 (rows 6a to 6e): R128 to R132. -/
def locCat6 (b : Byte) : List Verdict :=
  [ rowIf (b == 0xB8#8) .arpInd,
    rowIf (b == 0xB9#8) .arpPostInc,
    rowIf (b == 0xBA#8) .arpPostDec,
    rowIf (b == 0xBB#8) .arpPostIncAr0,
    rowIf (b == 0xBC#8) .arpPostDecAr0 ]

/-- Category 7 (rows 7a, 7b): R133, R134. -/
def locCat7 (b : Byte) : List Verdict :=
  [ rowIf (b == 0xAE#8) .arpBr0PostInc, rowIf (b == 0xAF#8) .arpBr0PostDec ]

/-- A decorated row of category 8: in mode 0 its verdict is failure (R136). -/
def decorated (amode : Bool) (c : Bool) (l : Loc) : Verdict :=
  if c then (if amode then .hit l else .fail) else .skip

/-- Category 8 (rows 8a to 8g): R135 to R142. -/
def locCat8 (amode : Bool) (b : Byte) : List Verdict :=
  [ rowIf (locPrefix b == 0b10110#5) (.arpSet (locN b)),
    decorated amode (locPrefix b == 0b11001#5) (.arpSetPostInc (locN b)),
    decorated amode (locPrefix b == 0b11010#5) (.arpSetPostDec (locN b)),
    decorated amode (locPrefix b == 0b11011#5) (.arpSetPostIncAr0 (locN b)),
    decorated amode (locPrefix b == 0b11100#5) (.arpSetPostDecAr0 (locN b)),
    decorated amode (locPrefix b == 0b11101#5) (.arpSetBr0PostInc (locN b)),
    decorated amode (locPrefix b == 0b11110#5) (.arpSetBr0PostDec (locN b)) ]

/-- Category 9 (rows 9a, 9b): R143, R144. -/
def locCat9 (amode : Bool) (b : Byte) : List Verdict :=
  [ rowIf (!amode && b == 0xBF#8) .circAr6, rowIf (amode && b == 0xBF#8) .circXar6Ar1 ]

/-- Category 10 (rows 10a to 10d): R145, R146. -/
def locCat10 (width : LocWidth) (b : Byte) : List Verdict :=
  match width with
  | .w16 =>
    [ rowIf (locPrefix b == 0b10100#5) (.reg16 (.ar (locN b))),
      rowIf (b == 0xA8#8) (.reg16 .ah),
      rowIf (b == 0xA9#8) (.reg16 .al),
      rowIf (b == 0xAA#8) (.reg16 .ph),
      rowIf (b == 0xAB#8) (.reg16 .pl),
      rowIf (b == 0xAC#8) (.reg16 .th),
      rowIf (b == 0xAD#8) (.reg16 .sp) ]
  | .w32 =>
    [ rowIf (locPrefix b == 0b10100#5) (.reg32 (.xar (locN b))),
      rowIf (b == 0xA9#8) (.reg32 .acc),
      rowIf (b == 0xAB#8) (.reg32 .p),
      rowIf (b == 0xAC#8) (.reg32 .xt) ]

/-- The table of R117 in its priority order (R116); `ARP_DECOR_PRIORITY` places category 8 before or after
category 5 (R136). -/
def locRows (p : Params) (amode : Bool) (width : LocWidth) (b : Byte) : List Verdict :=
  locCat1 p amode b ++ locCat2 amode b ++ locCat3 b ++ locCat4 b ++
    (match p.arpDecorPriority with
      | .afterCat5 => locCat5 amode b ++ locCat6 b ++ locCat7 b ++ locCat8 amode b
      | .beforeCat5 => locCat8 amode b ++ locCat5 amode b ++ locCat6 b ++ locCat7 b) ++
    locCat9 amode b ++ locCat10 width b

/-- First match wins (41_addressing.md R116). -/
def firstHit : List Verdict → Option Loc
  | [] => none
  | .skip :: rest => firstHit rest
  | .fail :: _ => none
  | .hit l :: _ => some l

/-- `resolve(b, amode, width)` (41_addressing.md R115, R147): the form a location byte names, or `none`. -/
def resolve (p : Params) (amode : Bool) (width : LocWidth) (b : Byte) : Option Loc :=
  firstHit (locRows p amode width b)

/-! ### Descriptor records -/

/-- The `AddressingDescriptor` record of a form (10_state.md R34, 41_addressing.md R118 to R146). -/
def Loc.descriptor : Loc → AddressingDescriptor
  | .directDp6 o => { form := .directDp6, offset := some o.toNat }
  | .directDp7 o => { form := .directDp7, offset := some o.toNat }
  | .stackNeg6 o => { form := .stackNeg6, reg := some .sp, offset := some o.toNat, indirect := true }
  | .spPostInc => { form := .spPostInc, reg := some .sp, indirect := true, postInc := true }
  | .spPreDec => { form := .spPreDec, reg := some .sp, indirect := true, preDec := true }
  | .xarPostInc n => { form := .xarPostInc, reg := some (.xar n), indirect := true, postInc := true }
  | .xarPreDec n => { form := .xarPreDec, reg := some (.xar n), indirect := true, preDec := true }
  | .xarIdxAr0 n => { form := .xarIdxAr0, reg := some (.xar n), indirect := true, index := some .ar0 }
  | .xarIdxAr1 n => { form := .xarIdxAr1, reg := some (.xar n), indirect := true, index := some .ar1 }
  | .xarOff3 n o =>
    { form := .xarOff3, reg := some (.xar n), indirect := true, index := some .offset3, offset := some o.toNat }
  | .arpInd => { form := .arpInd, indirect := true }
  | .arpPostInc => { form := .arpPostInc, indirect := true, postInc := true }
  | .arpPostDec => { form := .arpPostDec, indirect := true, postDec := true }
  | .arpPostIncAr0 => { form := .arpPostIncAr0, indirect := true, postInc := true, index := some .ar0 }
  | .arpPostDecAr0 => { form := .arpPostDecAr0, indirect := true, postDec := true, index := some .ar0 }
  | .arpBr0PostInc => { form := .arpBr0PostInc, indirect := true, postInc := true, bitRevBR0 := true }
  | .arpBr0PostDec => { form := .arpBr0PostDec, indirect := true, postDec := true, bitRevBR0 := true }
  | .arpSet n => { form := .arpSet, ptr := some n.toNat, indirect := true }
  | .arpSetPostInc n => { form := .arpSetPostInc, ptr := some n.toNat, indirect := true, postInc := true }
  | .arpSetPostDec n => { form := .arpSetPostDec, ptr := some n.toNat, indirect := true, postDec := true }
  | .arpSetPostIncAr0 n =>
    { form := .arpSetPostIncAr0, ptr := some n.toNat, indirect := true, postInc := true, index := some .ar0 }
  | .arpSetPostDecAr0 n =>
    { form := .arpSetPostDecAr0, ptr := some n.toNat, indirect := true, postDec := true, index := some .ar0 }
  | .arpSetBr0PostInc n =>
    { form := .arpSetBr0PostInc, ptr := some n.toNat, indirect := true, postInc := true, bitRevBR0 := true }
  | .arpSetBr0PostDec n =>
    { form := .arpSetBr0PostDec, ptr := some n.toNat, indirect := true, postDec := true, bitRevBR0 := true }
  | .circAr6 => { form := .circAr6, reg := some (.xar 6), indirect := true, postInc := true, circular := true }
  | .circXar6Ar1 =>
    { form := .circXar6Ar1, reg := some (.xar 6), indirect := true, index := some .ar1, postInc := true,
      circular := true }
  | .reg16 r => { form := .reg16, reg := some r }
  | .reg32 r => { form := .reg32, reg := some r }

/-! ### Display tokens -/

/-- The token list of a form (41_addressing.md R118 to R146). -/
def Loc.tokens : Loc → List Token
  | .directDp6 o => [textToken "@", textToken (hex o.toNat)]
  | .directDp7 o => [textToken "@@", textToken (hex o.toNat)]
  | .stackNeg6 o => [textToken "*-", Reg.sp.token, textToken "[", textToken (dec o.toNat), textToken "]"]
  | .spPostInc => [textToken "*", Reg.sp.token, textToken "++"]
  | .spPreDec => [textToken "*--", Reg.sp.token]
  | .xarPostInc n => [textToken "*", (Reg.xar n).token, textToken "++"]
  | .xarPreDec n => [textToken "*--", (Reg.xar n).token]
  | .xarIdxAr0 n => [textToken "*+", (Reg.xar n).token, textToken "[", (Reg.ar 0).token, textToken "]"]
  | .xarIdxAr1 n => [textToken "*+", (Reg.xar n).token, textToken "[", (Reg.ar 1).token, textToken "]"]
  | .xarOff3 n o => [textToken "*+", (Reg.xar n).token, textToken "[", textToken (dec o.toNat), textToken "]"]
  | .arpInd => [textToken "*"]
  | .arpPostInc => [textToken "*++"]
  | .arpPostDec => [textToken "*--"]
  | .arpPostIncAr0 => [textToken "*0++"]
  | .arpPostDecAr0 => [textToken "*0--"]
  | .arpBr0PostInc => [textToken "*", Reg.br0.token, textToken "++"]
  | .arpBr0PostDec => [textToken "*", Reg.br0.token, textToken "--"]
  | .arpSet n => [textToken "*", textToken ",", (Reg.arp n).token]
  | .arpSetPostInc n => [textToken "*++", textToken ",", (Reg.arp n).token]
  | .arpSetPostDec n => [textToken "*--", textToken ",", (Reg.arp n).token]
  | .arpSetPostIncAr0 n => [textToken "*0++", textToken ",", (Reg.arp n).token]
  | .arpSetPostDecAr0 n => [textToken "*0--", textToken ",", (Reg.arp n).token]
  | .arpSetBr0PostInc n => [textToken "*", Reg.br0.token, textToken "++", textToken ",", (Reg.arp n).token]
  | .arpSetBr0PostDec n => [textToken "*", Reg.br0.token, textToken "--", textToken ",", (Reg.arp n).token]
  | .circAr6 => [textToken "*", (Reg.ar 6).token, textToken "%++"]
  | .circXar6Ar1 =>
    [textToken "*+", (Reg.xar 6).token, textToken "[", (Reg.ar 1).token, textToken "%++", textToken "]"]
  | .reg16 r => [textToken "@", r.token]
  | .reg32 r => [textToken "@", r.token]

/-- What `resolve` returns to a caller: the descriptor record and the tokens (41_addressing.md R115). -/
def resolveAnswer (p : Params) (amode : Bool) (width : LocWidth) (b : Byte) :
    Option (AddressingDescriptor × List Token) :=
  (resolve p amode width b).map (fun l => (l.descriptor, l.tokens))

end Sys2Proof
end

