-- ==== Sys2Proof/Machine/Catalog.lean ====
section
/-! DEFINITION. Sys2Proof/Machine/Catalog.lean: the rows of `CATALOG_GK` (44_catalog.md R195 to R225), the tests that recognise the
named rows with open encodings (R226 to R238), the allow-list (R240) and the catalog validator (30_encoding.md R66 to
R70). -/

namespace Sys2Proof

/-! ### Shapes shared by the rows -/

/-- A 16-bit row with no field (format `F16_NONE`). -/
def rowNone (opcode : Op32) (mnemonic : String) (c : CfClass) : Descriptor :=
  { opcode := opcode, mask := 0xFFFF, length := .two, mnemonic := mnemonic, cfClass := c }

/-- The `loc` field of `F16_LOC8`. -/
def fieldLoc8 (k : FieldKind) : Field := ⟨"loc", 0, 8, k⟩

/-- The operand that shows one field by its kind. -/
def operandField (name : String) : List Part := [.field name]

/-- The operand that shows one fixed register. -/
def operandReg (r : Reg) : List Part := [.reg r]

/-- A 32-bit row with an absolute target (format `F32_IMM22`). -/
def rowImm22 (opcode : Op32) (mnemonic : String) (operands : List (List Part)) (c : CfClass) : Descriptor :=
  { opcode := opcode, mask := 0xFFC00000, length := .four, mnemonic := mnemonic,
    fields := [⟨"imm22", 0, 22, .abs22⟩], operands := operands, cfClass := c }

/-- A 16-bit row with a location byte (format `F16_LOC8`). -/
def rowLoc8 (opcode : Op32) (mnemonic : String) (k : FieldKind) (operands : List (List Part)) (c : CfClass)
    (repeatable : Bool) : Descriptor :=
  { opcode := opcode, mask := 0xFF00, length := .two, mnemonic := mnemonic, fields := [fieldLoc8 k],
    operands := operands, cfClass := c, repeatable := repeatable }

/-! ### 16-bit rows -/

/-- R195 -/
def rowItrap0 : Descriptor := rowNone 0x0000 "ITRAP0" .none
/-- R196 -/
def rowItrap1 : Descriptor := rowNone 0xFFFF "ITRAP1" .none
/-- R197 -/
def rowAborti : Descriptor := rowNone 0x0001 "ABORTI" .none
/-- R198 -/
def rowLretr : Descriptor := rowNone 0x0006 "LRETR" .ret
/-- R199 -/
def rowTrap : Descriptor :=
  { opcode := 0x0020, mask := 0xFFE0, length := .two, mnemonic := "TRAP", fields := [⟨"n", 0, 5, .immU⟩],
    operands := [operandField "n"], cfClass := .trap }
/-- R200 -/
def rowIret : Descriptor := rowNone 0x7602 "IRET" .ret
/-- R201 -/
def rowLrete : Descriptor := rowNone 0x7610 "LRETE" .ret
/-- R202 -/
def rowLret : Descriptor := rowNone 0x7614 "LRET" .ret
/-- R203 -/
def rowLbXar7 : Descriptor :=
  { opcode := 0x7620, mask := 0xFFFF, length := .two, mnemonic := "LB",
    operands := [[.text "*", .reg (.xar 7)]], cfClass := .indBranch }
/-- R204 -/
def rowNop : Descriptor :=
  { opcode := 0x7700, mask := 0xFFFF, length := .two, mnemonic := "NOP", cfClass := .none, repeatable := true }
/-- R205 -/
def rowEint : Descriptor := rowNone 0x2910 "EINT" .none
/-- R206 -/
def rowClrc : Descriptor :=
  { opcode := 0x2900, mask := 0xFF00, length := .two, mnemonic := "CLRC", fields := [⟨"mode", 0, 8, .mode8⟩],
    operands := [operandField "mode"], cfClass := .none }
/-- R207 -/
def rowDint : Descriptor := rowNone 0x3B10 "DINT" .none
/-- R208 -/
def rowSetc : Descriptor :=
  { opcode := 0x3B00, mask := 0xFF00, length := .two, mnemonic := "SETC", fields := [⟨"mode", 0, 8, .mode8⟩],
    operands := [operandField "mode"], cfClass := .none }
/-- R209 -/
def rowSb : Descriptor :=
  { opcode := 0x6000, mask := 0xF000, length := .two, mnemonic := "SB",
    fields := [⟨"cond", 8, 4, .cond⟩, ⟨"off8", 0, 8, .rel⟩],
    operands := [operandField "off8", operandField "cond"], cfClass := .condRel, relBase := some .current }
/-- R210 -/
def rowRptImm : Descriptor :=
  { opcode := 0xF600, mask := 0xFF00, length := .two, mnemonic := "RPT", fields := [⟨"imm8", 0, 8, .immU⟩],
    operands := [operandField "imm8"], cfClass := .repeated }
/-- R211 -/
def rowRptLoc : Descriptor := rowLoc8 0xF700 "RPT" .loc16 [operandField "loc"] .repeated false
/-- R212 -/
def rowMovlAccLoc : Descriptor :=
  rowLoc8 0x0600 "MOVL" .loc32 [operandReg .acc, operandField "loc"] .none false
/-- R213 -/
def rowMovAlLoc : Descriptor := rowLoc8 0x9200 "MOV" .loc16 [operandReg .al, operandField "loc"] .none false
/-- R214 -/
def rowMovAhLoc : Descriptor := rowLoc8 0x9300 "MOV" .loc16 [operandReg .ah, operandField "loc"] .none false
/-- R215 -/
def rowMovLocAl : Descriptor := rowLoc8 0x9600 "MOV" .loc16 [operandField "loc", operandReg .al] .none true
/-- R216 -/
def rowMovLocAh : Descriptor := rowLoc8 0x9700 "MOV" .loc16 [operandField "loc", operandReg .ah] .none true
/-- R217 -/
def rowAddb : Descriptor :=
  { opcode := 0x0900, mask := 0xFF00, length := .two, mnemonic := "ADDB", fields := [⟨"imm8", 0, 8, .immU⟩],
    operands := [operandReg .acc, operandField "imm8"], cfClass := .none }

/-! ### 32-bit rows -/

/-- R218 -/
def rowLb : Descriptor := rowImm22 0x00400000 "LB" [operandField "imm22"] .jumpAbs
/-- R219 -/
def rowLc : Descriptor := rowImm22 0x00800000 "LC" [operandField "imm22"] .callAbs
/-- R220 -/
def rowFfc : Descriptor := rowImm22 0x00C00000 "FFC" [operandReg (.xar 7), operandField "imm22"] .callAbs
/-- R221 -/
def rowLcr : Descriptor := rowImm22 0x76400000 "LCR" [[.text "#", .field "imm22"]] .callAbs
/-- R222 -/
def rowBanz : Descriptor :=
  { opcode := 0x00080000, mask := 0xFFF80000, length := .four, mnemonic := "BANZ",
    fields := [⟨"n", 16, 3, .areg⟩, ⟨"off16", 0, 16, .rel⟩],
    operands := [operandField "off16", [.counter "n"]], cfClass := .condRel, relBase := some .next }
/-- R223 -/
def rowB : Descriptor :=
  { opcode := 0xFFE00000, mask := 0xFFF00000, length := .four, mnemonic := "B",
    fields := [⟨"cond", 16, 4, .cond⟩, ⟨"off16", 0, 16, .rel⟩],
    operands := [operandField "off16", operandField "cond"], cfClass := .condRel, relBase := some .next }
/-- R224 -/
def rowMovAccImm : Descriptor :=
  { opcode := 0xFF200000, mask := 0xFFF00000, length := .four, mnemonic := "MOV",
    fields := [⟨"shift", 16, 4, .shift⟩, ⟨"imm16", 0, 16, .immU⟩],
    operands := [operandReg .acc, [.field "imm16", .field "shift"]], cfClass := .none }
/-- R225 -/
def rowInLoc : Descriptor :=
  { opcode := 0xB4000000, mask := 0xFF000000, length := .four, mnemonic := "IN",
    fields := [⟨"loc", 16, 8, .loc16⟩, ⟨"pa", 0, 16, .immMmio⟩],
    operands := [operandField "loc", operandField "pa"], cfClass := .none }

/-- The default catalog instance, indices 0 to 30 (44_catalog.md R195 to R225). -/
def catalogGK : Catalog :=
  [rowItrap0, rowItrap1, rowAborti, rowLretr, rowTrap, rowIret, rowLrete, rowLret, rowLbXar7, rowNop, rowEint] ++
  [rowClrc, rowDint, rowSetc, rowSb, rowRptImm, rowRptLoc, rowMovlAccLoc, rowMovAlLoc, rowMovAhLoc] ++
  [rowMovLocAl, rowMovLocAh, rowAddb, rowLb, rowLc, rowFfc, rowLcr, rowBanz, rowB, rowMovAccImm, rowInLoc]

/-- The allow-list of intended specializations of `CATALOG_GK` (44_catalog.md R240). -/
def allowGK : List (Nat × Nat) := [(10, 11), (12, 13)]

/-! ### Named rows with open encodings -/

/-- A descriptor equals a row of `CATALOG_GK`. -/
def isRow (r : Descriptor) (d : Descriptor) : Bool := decide (d = r)

/-- A descriptor is a named row: it has the mnemonic and the class its rule gives it (44_catalog.md section 3). -/
def isNamed (mnemonic : String) (c : CfClass) (d : Descriptor) : Bool :=
  decide (d.mnemonic = mnemonic) && decide (d.cfClass = c)

/-- A named PC-relative row also has the base its rule gives it (44_catalog.md R235 to R237). -/
def isNamedRel (mnemonic : String) (base : RelBase) (d : Descriptor) : Bool :=
  isNamed mnemonic .condRel d && decide (d.relBase = some base)

/-- A loop-wait row: length 4, format `F32_LOC_IMM16` and the listing shape of 44_catalog.md R226. -/
def isLoopRow (mnemonic : String) (d : Descriptor) : Bool :=
  isNamed mnemonic .loopWait d && decide (d.length = .four) &&
    decide (d.fields = [⟨"loc", 16, 8, .loc16⟩, ⟨"imm16", 0, 16, .immU⟩]) &&
    decide (d.operands = [operandField "loc", operandField "imm16"])

/-- The rule of 44_catalog.md section 3 on a catalog that holds a named row: it must give the row the class
(and base) stated there.  LC and LCR also name absolute rows (R219, R221). -/
def Descriptor.namedOk (d : Descriptor) : Bool :=
  (d.mnemonic != "LOOPZ" || decide (d.cfClass = .loopWait)) &&
  (d.mnemonic != "LOOPNZ" || decide (d.cfClass = .loopWait)) &&
  (d.mnemonic != "RPTB" || decide (d.cfClass = .repeated)) &&
  (d.mnemonic != "XB" || decide (d.cfClass = .jumpXbank) || decide (d.cfClass = .condXbank)) &&
  (d.mnemonic != "XCALL" || decide (d.cfClass = .callXbank)) &&
  (d.mnemonic != "XRETC" || decide (d.cfClass = .ret)) &&
  (d.mnemonic != "LC" || decide (d.cfClass = .callAbs) || decide (d.cfClass = .indCall)) &&
  (d.mnemonic != "LCR" || decide (d.cfClass = .callAbs) || decide (d.cfClass = .indCall)) &&
  (d.mnemonic != "SBF" || isNamedRel "SBF" .current d) &&
  (d.mnemonic != "BAR" || isNamedRel "BAR" .next d) &&
  (d.mnemonic != "BF" || isNamedRel "BF" .next d) &&
  (d.mnemonic != "INTR" || decide (d.cfClass = .trap))

/-- The first row of a catalog that satisfies a test, with its index. -/
def findRow (sel : Descriptor → Bool) : Catalog → Nat → Option (Nat × Descriptor)
  | [], _ => none
  | d :: rest, i => if sel d then some (i, d) else findRow sel rest (i + 1)

/-! ### Well-formedness of descriptors and catalogs -/

/-- Two fields share no bit (30_encoding.md R68).  A field of width 0 strictly
inside another counts as overlapping it (notes/assumptions/30.md). -/
def Field.disjoint (f g : Field) : Bool := decide (f.lo + f.width ≤ g.lo) || decide (g.lo + g.width ≤ f.lo)

/-- No two fields of a list share a bit. -/
def fieldsDisjoint : List Field → Bool
  | [] => true
  | f :: rest => rest.all f.disjoint && fieldsDisjoint rest

/-- A descriptor is well formed (30_encoding.md R66, R67, R68): no opcode bit outside the mask; a 2-byte row has
mask and opcode below `2^16`; the fields lie inside the encoding and overlap neither the mask nor one another.  That a
field has the width of its kind (R76) is no part of these rules (notes/assumptions/18.md). -/
def Descriptor.wf (d : Descriptor) : Bool :=
  decide (d.opcode &&& ~~~ d.mask = 0) &&
  (match d.length with
    | .two => decide (d.mask.toNat < 2 ^ 16) && decide (d.opcode.toNat < 2 ^ 16)
    | .four => true) &&
  d.fields.all (fun f => decide (f.bits &&& d.mask = 0) && decide (f.lo + f.width ≤ 8 * d.length.bytes)) &&
  fieldsDisjoint d.fields

/-- The field a class reads is there, and a PC-relative class has a base (42_control_flow.md R154 to R156,
R169; 10_state.md R26; notes/assumptions/31.md). -/
def Descriptor.classOk (d : Descriptor) : Bool :=
  match d.cfClass with
  | .condRel => (d.fieldOfKind? (fun k => decide (k = .rel))).isSome && d.relBase.isSome
  | .jumpAbs => (d.fieldOfKind? (fun k => decide (k = .abs22))).isSome
  | .callAbs => (d.fieldOfKind? (fun k => decide (k = .abs22))).isSome
  | .jumpXbank => (d.fieldOfKind? (fun k => decide (k = .pma16))).isSome
  | .condXbank => (d.fieldOfKind? (fun k => decide (k = .pma16))).isSome
  | .callXbank => (d.fieldOfKind? (fun k => decide (k = .pma16))).isSome
  | _ => true

/-- A part of an operand refers to a field of its descriptor, and a counter to an AREG field
(10_state.md R26, 43_render.md R187). -/
def Part.ok (d : Descriptor) : Part → Bool
  | .text _ => true
  | .reg _ => true
  | .field name => (d.field? name).isSome
  | .counter name =>
    match d.field? name with
    | some f => decide (f.kind = .areg)
    | none => false

/-- The operand list of a descriptor refers to its own fields. -/
def Descriptor.operandsOk (d : Descriptor) : Bool := d.operands.all (fun o => o.all (Part.ok d))

/-- Modes of two descriptors that can accept one encoding: equal, or either `Any` (30_encoding.md R69). -/
def CompatMode.compatible (a b : CompatMode) : Bool :=
  decide (a = b) || decide (a = .any) || decide (b = .any)

/-- Two descriptors overlap: some value satisfies both matches (30_encoding.md R70). -/
def Descriptor.overlaps (d e : Descriptor) : Bool := decide ((d.opcode ^^^ e.opcode) &&& d.mask &&& e.mask = 0)

/-- The earlier descriptor `d` is a specialization of the later `e` (30_encoding.md R70). -/
def Descriptor.specializes (d e : Descriptor) : Bool := d.overlaps e && decide (e.mask &&& ~~~ d.mask = 0)

/-- An earlier and a later row may stand in this order (30_encoding.md R69). -/
def pairOk (allow : List (Nat × Nat)) (i : Nat) (d : Descriptor) (j : Nat) (e : Descriptor) : Bool :=
  !(decide (d.length = e.length) && d.mode.compatible e.mode && d.overlaps e) ||
    (d.specializes e && decide ((i, j) ∈ allow))

/-- The first later row that may not follow row `i`. -/
def firstBadAfter (allow : List (Nat × Nat)) (i : Nat) (d : Descriptor) : Nat → Catalog → Option Nat
  | _, [] => none
  | j, e :: rest => if pairOk allow i d j e then firstBadAfter allow i d (j + 1) rest else some j

/-- The catalog validator (30_encoding.md R70): `none` for a valid catalog, else the two indices that
`F_CATALOG_AMBIGUOUS` records (60_exceptions.md R256).  A descriptor that breaks R66 to R68 is reported with its
own index twice (notes/assumptions/9.md). -/
def firstBad (allow : List (Nat × Nat)) : Nat → Catalog → Option (Nat × Nat)
  | _, [] => none
  | i, d :: rest =>
    if d.wf then
      match firstBadAfter allow i d (i + 1) rest with
      | some j => some (i, j)
      | none => firstBad allow (i + 1) rest
    else some (i, i)

/-- A catalog is valid (30_encoding.md R70). -/
abbrev Catalog.valid (cat : Catalog) (allow : List (Nat × Nat)) : Prop := firstBad allow 0 cat = none

/-- Every descriptor has the fields its class and its operands read, the domain in which classify and render
answer every record of a decode (42_control_flow.md R166). -/
abbrev Catalog.complete (cat : Catalog) : Prop := ∀ d ∈ cat, d.classOk = true ∧ d.operandsOk = true

end Sys2Proof
end

