-- ==== Sys2Proof/Machine/Variant.lean ====
section
/-! DEFINITION. Sys2Proof/Machine/Variant.lean: the three variant configurations (00_scope.md R4) and the default parameters (R10). -/

namespace Sys2Proof

/-- Variant `C27X_OBJ` (00_scope.md R4). -/
def Cfg.c27xObj : Cfg := ⟨false, false⟩

/-- Variant `C28X`, the native one (00_scope.md R4). -/
def Cfg.c28x : Cfg := ⟨true, false⟩

/-- Variant `C2XLP` (00_scope.md R4). -/
def Cfg.c2xlp : Cfg := ⟨true, true⟩

/-- The default parameter values (00_scope.md R10). -/
def Params.default : Params where
  addrWidth := 64
  dispatchFlag := .amode
  uncAsUnconditional := false
  xbank := 0x3F0000
  arpDecorPriority := .afterCat5
  directMode1Bits := .seven
  spaceWhenNoOperands := true

end Sys2Proof
end

