-- ==== Sys2Proof/WellFormed.lean ====
section
/-! DEFINITION. Sys2Proof/WellFormed.lean: which terms of `Instr` stand for an encoding of `CATALOG_GK` under given parameters and a
given address mode. -/

namespace Sys2Proof

/-- A location byte resolves (30_encoding.md R82, R85). -/
def locOk (p : Params) (amode : Bool) (width : LocWidth) (b : Byte) : Bool := (resolve p amode width b).isSome

/-- `CLRC` and `SETC` of `INTM` alone are the rows EINT and DINT (30_encoding.md R90). -/
def modeOk (m : BitVec 8) : Bool := m != 0x10#8

/-- The well-formed instructions of `CATALOG_GK`: a location byte must resolve; a mode mask must not be one that
the specific row takes; a row with an open encoding has none in `CATALOG_GK` (44_catalog.md section 3). -/
def Instr.wellFormed (p : Params) (amode : Bool) : Instr → Bool
  | .itrap0 => true
  | .itrap1 => true
  | .aborti => true
  | .lretr => true
  | .trap _ => true
  | .iret => true
  | .lrete => true
  | .lret => true
  | .lbXar7 => true
  | .nop => true
  | .eint => true
  | .clrc m => modeOk m
  | .dint => true
  | .setc m => modeOk m
  | .sb _ _ => true
  | .rptImm _ => true
  | .rptLoc l => locOk p amode .w16 l
  | .movlAccLoc l => locOk p amode .w32 l
  | .movAlLoc l => locOk p amode .w16 l
  | .movAhLoc l => locOk p amode .w16 l
  | .movLocAl l => locOk p amode .w16 l
  | .movLocAh l => locOk p amode .w16 l
  | .addb _ => true
  | .lb _ => true
  | .lc _ => true
  | .ffc _ => true
  | .lcr _ => true
  | .banz _ _ => true
  | .b _ _ => true
  | .movAccImm _ _ => true
  | .inLoc l _ => locOk p amode .w16 l
  | .loopz _ _ => false
  | .loopnz _ _ => false
  | .rptb _ => false
  | .xbArp _ => false
  | .xbCond _ => false
  | .xcallArp _ => false
  | .xretc _ => false
  | .lcXar7 _ => false
  | .lcrXar _ => false
  | .sbf _ => false
  | .bar _ => false
  | .bf _ => false
  | .intr _ => false

end Sys2Proof
end

