-- ==== Sys2Proof/Decode.lean ====
section
/-! DEFINITION. Sys2Proof/Decode.lean: the opcode dispatcher (40_dispatch.md), total on every window and rejecting by failure code;
the instruction a decoded record is; and the encoder, written from the same catalog rows. -/

namespace Sys2Proof

/-! ### The dispatcher -/

/-- The mode the dispatcher's filter compares (40_dispatch.md R103, `DISPATCH_MODE_FLAG`). -/
def activeMode (p : Params) (c : Cfg) : Bool :=
  match p.dispatchFlag with
  | .amode => c.amode
  | .objmode => c.objmode

/-- Structural match (40_dispatch.md R102). -/
def Descriptor.matches (d : Descriptor) (op : Op32) : Bool := decide (op &&& d.mask = d.opcode)

/-- Mode acceptance (40_dispatch.md R103). -/
def CompatMode.accepts : CompatMode → Bool → Bool
  | .any, _ => true
  | .mode0, m => !m
  | .mode1, m => m

/-- The test of one pass on one row (40_dispatch.md R104, R105). -/
def Descriptor.selected (mode : Bool) (len : Len) (op : Op32) (d : Descriptor) : Bool :=
  decide (d.length = len) && d.matches op && d.mode.accepts mode

/-- The addressing form of one field of an accepted row, if it is a location field (40_dispatch.md R108).  The byte is the
low 8 bits of the field (notes/assumptions/18.md). -/
def extractField (p : Params) (c : Cfg) (op : Op32) (f : Field) : Except Failure (Option Loc) :=
  match f.kind.locWidth? with
  | none => .ok none
  | some w =>
    match resolve p c.amode w (BitVec.ofNat 8 (f.get op)) with
    | some l => .ok (some l)
    | none => .error (.addrResolve op f.name (BitVec.ofNat 8 (f.get op)) c.amode w)

/-- The assignments of addressing descriptors to the location fields, in field order; the first field that does not resolve
fails the decode (40_dispatch.md R109, 60_exceptions.md R258). -/
def extractLocs (p : Params) (c : Cfg) (op : Op32) : List Field → Except Failure (List (String × Loc))
  | [] => .ok []
  | f :: rest =>
    match extractField p c op f with
    | .error e => .error e
    | .ok l =>
      match extractLocs p c op rest with
      | .error e => .error e
      | .ok ls =>
        match l with
        | none => .ok ls
        | some l => .ok ((f.name, l) :: ls)

/-- The assignments of field values, in field order, as the codec extracts them (40_dispatch.md R108). -/
def extractValues (op : Op32) (fields : List Field) : Values := fields.map (fun f => (f.name, f.value op))

/-- `OBJ_EFFECT` on the values of an object-sensitive row (10_state.md R21, 40_dispatch.md R108;
notes/assumptions/3.md). -/
def applyObj (c : Cfg) (d : Descriptor) (vals : Values) : Values :=
  if d.objSensitive then vals.map (fun v => (v.1, Config.objEffect d c.objmode vals v.1)) else vals

/-- `finish(i, op)`: the record of the accepted row `i` (40_dispatch.md R108).  Of two fields of one name the later
overwrites the earlier in both maps. -/
def finish (p : Params) (c : Cfg) (i : Nat) (d : Descriptor) (op : Op32) : Except Failure Decoded :=
  match extractLocs p c op d.fields with
  | .error e => .error e
  | .ok locs =>
    .ok { desc := i, length := d.length, raw := op,
          values := applyObj c d (assigned (extractValues op d.fields)), addr := assigned locs }

/-- One pass: the first accepted row of a length (40_dispatch.md R104, R105, R107). -/
def pass (p : Params) (c : Cfg) (cat : Catalog) (len : Len) (op : Op32) : Option (Nat × Descriptor) :=
  findRow (Descriptor.selected (activeMode p c) len op) cat 0

/-- `decode(W, n, A, CFG)` (40_dispatch.md R100 to R112); `A` plays no part in it. -/
def decodeWindow (p : Params) (c : Cfg) (cat : Catalog) (w : Window) (n : Nat) : Except Failure Decoded :=
  if n < 2 then .error (.windowShort n none)
  else
    match pass p c cat .two (w.opcode .two) with
    | some (i, d) => finish p c i d (w.opcode .two)
    | none =>
      if n < 4 then .error (.windowShort n (some w.opcode16))
      else
        match pass p c cat .four (w.opcode .four) with
        | some (i, d) => finish p c i d (w.opcode .four)
        | none => .error (.noMatch w.opcode16 w.opcode32)

/-! ### The instruction a row and an opcode value are -/

/-- A field of an opcode value as a bit vector. -/
def bitsAt (lo width : Nat) (op : Op32) : BitVec width := op.extractLsb' lo width

/-- The 2-byte rows of `CATALOG_GK`, each with the term its opcode value stands for. -/
def rows16 : List (Descriptor × (Op32 → Instr)) :=
  [ (rowItrap0, fun _ => .itrap0),
    (rowItrap1, fun _ => .itrap1),
    (rowAborti, fun _ => .aborti),
    (rowLretr, fun _ => .lretr),
    (rowTrap, fun op => .trap (bitsAt 0 5 op)),
    (rowIret, fun _ => .iret),
    (rowLrete, fun _ => .lrete),
    (rowLret, fun _ => .lret),
    (rowLbXar7, fun _ => .lbXar7),
    (rowNop, fun _ => .nop),
    (rowEint, fun _ => .eint),
    (rowClrc, fun op => .clrc (bitsAt 0 8 op)),
    (rowDint, fun _ => .dint),
    (rowSetc, fun op => .setc (bitsAt 0 8 op)),
    (rowSb, fun op => .sb (bitsAt 8 4 op) (bitsAt 0 8 op)),
    (rowRptImm, fun op => .rptImm (bitsAt 0 8 op)),
    (rowRptLoc, fun op => .rptLoc (bitsAt 0 8 op)),
    (rowMovlAccLoc, fun op => .movlAccLoc (bitsAt 0 8 op)),
    (rowMovAlLoc, fun op => .movAlLoc (bitsAt 0 8 op)),
    (rowMovAhLoc, fun op => .movAhLoc (bitsAt 0 8 op)),
    (rowMovLocAl, fun op => .movLocAl (bitsAt 0 8 op)),
    (rowMovLocAh, fun op => .movLocAh (bitsAt 0 8 op)),
    (rowAddb, fun op => .addb (bitsAt 0 8 op)) ]

/-- The 4-byte rows of `CATALOG_GK`. -/
def rows32 : List (Descriptor × (Op32 → Instr)) :=
  [ (rowLb, fun op => .lb (bitsAt 0 22 op)),
    (rowLc, fun op => .lc (bitsAt 0 22 op)),
    (rowFfc, fun op => .ffc (bitsAt 0 22 op)),
    (rowLcr, fun op => .lcr (bitsAt 0 22 op)),
    (rowBanz, fun op => .banz (bitsAt 16 3 op) (bitsAt 0 16 op)),
    (rowB, fun op => .b (bitsAt 16 4 op) (bitsAt 0 16 op)),
    (rowMovAccImm, fun op => .movAccImm (bitsAt 16 4 op) (bitsAt 0 16 op)),
    (rowInLoc, fun op => .inLoc (bitsAt 16 8 op) (bitsAt 0 16 op)) ]

/-- The named rows with open encodings (44_catalog.md R226 to R238). -/
def rowsOpen : List ((Descriptor → Bool) × (Op32 → Instr)) :=
  [ (isLoopRow "LOOPZ", fun op => .loopz (bitsAt 16 8 op) (bitsAt 0 16 op)),
    (isLoopRow "LOOPNZ", fun op => .loopnz (bitsAt 16 8 op) (bitsAt 0 16 op)),
    (isNamed "RPTB" .repeated, .rptb),
    (isNamed "XB" .jumpXbank, .xbArp),
    (isNamed "XB" .condXbank, .xbCond),
    (isNamed "XCALL" .callXbank, .xcallArp),
    (isNamed "XRETC" .ret, .xretc),
    (isNamed "LC" .indCall, .lcXar7),
    (isNamed "LCR" .indCall, .lcrXar),
    (isNamedRel "SBF" .current, .sbf),
    (isNamedRel "BAR" .next, .bar),
    (isNamedRel "BF" .next, .bf),
    (isNamed "INTR" .trap, .intr) ]

/-- The first entry of a row table that takes a descriptor. -/
def findTerm {α : Type} (test : α → Bool) (op : Op32) : List (α × (Op32 → Instr)) → Option Instr
  | [] => none
  | (r, f) :: rest => if test r then some (f op) else findTerm test op rest

/-- The instruction a row and an opcode value stand for; `none` for a row that is no row of the opcode table. -/
def instrOf (d : Descriptor) (op : Op32) : Option Instr :=
  match d.length with
  | .two => (findTerm (isRow d) op rows16).orElse (fun _ => findTerm (fun t => t d) op rowsOpen)
  | .four => (findTerm (isRow d) op rows32).orElse (fun _ => findTerm (fun t => t d) op rowsOpen)

/-! ### The encoder -/

/-- The row test of an instruction: its row of `CATALOG_GK`, or its named row. -/
def Instr.selects : Instr → Descriptor → Bool
  | .itrap0 => isRow rowItrap0
  | .itrap1 => isRow rowItrap1
  | .aborti => isRow rowAborti
  | .lretr => isRow rowLretr
  | .trap _ => isRow rowTrap
  | .iret => isRow rowIret
  | .lrete => isRow rowLrete
  | .lret => isRow rowLret
  | .lbXar7 => isRow rowLbXar7
  | .nop => isRow rowNop
  | .eint => isRow rowEint
  | .clrc _ => isRow rowClrc
  | .dint => isRow rowDint
  | .setc _ => isRow rowSetc
  | .sb _ _ => isRow rowSb
  | .rptImm _ => isRow rowRptImm
  | .rptLoc _ => isRow rowRptLoc
  | .movlAccLoc _ => isRow rowMovlAccLoc
  | .movAlLoc _ => isRow rowMovAlLoc
  | .movAhLoc _ => isRow rowMovAhLoc
  | .movLocAl _ => isRow rowMovLocAl
  | .movLocAh _ => isRow rowMovLocAh
  | .addb _ => isRow rowAddb
  | .lb _ => isRow rowLb
  | .lc _ => isRow rowLc
  | .ffc _ => isRow rowFfc
  | .lcr _ => isRow rowLcr
  | .banz _ _ => isRow rowBanz
  | .b _ _ => isRow rowB
  | .movAccImm _ _ => isRow rowMovAccImm
  | .inLoc _ _ => isRow rowInLoc
  | .loopz _ _ => isLoopRow "LOOPZ"
  | .loopnz _ _ => isLoopRow "LOOPNZ"
  | .rptb _ => isNamed "RPTB" .repeated
  | .xbArp _ => isNamed "XB" .jumpXbank
  | .xbCond _ => isNamed "XB" .condXbank
  | .xcallArp _ => isNamed "XCALL" .callXbank
  | .xretc _ => isNamed "XRETC" .ret
  | .lcXar7 _ => isNamed "LC" .indCall
  | .lcrXar _ => isNamed "LCR" .indCall
  | .sbf _ => isNamedRel "SBF" .current
  | .bar _ => isNamedRel "BAR" .next
  | .bf _ => isNamedRel "BF" .next
  | .intr _ => isNamed "INTR" .trap

/-- The opcode value of an instruction in a given row: the row's opcode with the fields set through the codec
(30_encoding.md R72), or the matched value of an open row. -/
def Instr.wordIn : Instr → Descriptor → Op32
  | .itrap0, d => d.assemble []
  | .itrap1, d => d.assemble []
  | .aborti, d => d.assemble []
  | .lretr, d => d.assemble []
  | .trap n, d => d.assemble [n.toNat]
  | .iret, d => d.assemble []
  | .lrete, d => d.assemble []
  | .lret, d => d.assemble []
  | .lbXar7, d => d.assemble []
  | .nop, d => d.assemble []
  | .eint, d => d.assemble []
  | .clrc m, d => d.assemble [m.toNat]
  | .dint, d => d.assemble []
  | .setc m, d => d.assemble [m.toNat]
  | .sb cond off8, d => d.assemble [cond.toNat, off8.toNat]
  | .rptImm imm8, d => d.assemble [imm8.toNat]
  | .rptLoc loc, d => d.assemble [loc.toNat]
  | .movlAccLoc loc, d => d.assemble [loc.toNat]
  | .movAlLoc loc, d => d.assemble [loc.toNat]
  | .movAhLoc loc, d => d.assemble [loc.toNat]
  | .movLocAl loc, d => d.assemble [loc.toNat]
  | .movLocAh loc, d => d.assemble [loc.toNat]
  | .addb imm8, d => d.assemble [imm8.toNat]
  | .lb imm22, d => d.assemble [imm22.toNat]
  | .lc imm22, d => d.assemble [imm22.toNat]
  | .ffc imm22, d => d.assemble [imm22.toNat]
  | .lcr imm22, d => d.assemble [imm22.toNat]
  | .banz n off16, d => d.assemble [n.toNat, off16.toNat]
  | .b cond off16, d => d.assemble [cond.toNat, off16.toNat]
  | .movAccImm shift imm16, d => d.assemble [shift.toNat, imm16.toNat]
  | .inLoc loc pa, d => d.assemble [loc.toNat, pa.toNat]
  | .loopz loc imm16, d => d.assemble [loc.toNat, imm16.toNat]
  | .loopnz loc imm16, d => d.assemble [loc.toNat, imm16.toNat]
  | .rptb raw, _ => raw
  | .xbArp raw, _ => raw
  | .xbCond raw, _ => raw
  | .xcallArp raw, _ => raw
  | .xretc raw, _ => raw
  | .lcXar7 raw, _ => raw
  | .lcrXar raw, _ => raw
  | .sbf raw, _ => raw
  | .bar raw, _ => raw
  | .bf raw, _ => raw
  | .intr raw, _ => raw

/-- The bytes of an instruction in a catalog, `W[0]` first; `none` where the catalog holds no row for it. -/
def encodeIn (cat : Catalog) (i : Instr) : Option (List Byte) :=
  (findRow i.selects cat 0).map (fun kd => bytesOf (i.wordIn kd.2) kd.2.length)

/-- The bytes of an instruction in `CATALOG_GK`; empty for a row with an open encoding. -/
def encode (i : Instr) : List Byte := (encodeIn catalogGK i).getD []

/-- The record the catalog gives an instruction under a configuration: its index, length, raw value, field values
and addressing descriptors (10_state.md R33); `none` where the catalog holds no row for it. -/
def Instr.record (p : Params) (c : Cfg) (cat : Catalog) (i : Instr) : Option (Except Failure Decoded) :=
  (findRow i.selects cat 0).map (fun kd => finish p c kd.1 kd.2 (i.wordIn kd.2))

/-- The instruction of the opcode table that a record is, when the record is exactly the one the catalog gives
that instruction; `none` for a row outside the table and for a record built elsewhere. -/
def identify (p : Params) (c : Cfg) (cat : Catalog) (r : Decoded) : Option Instr :=
  match cat[r.desc]? with
  | none => none
  | some d =>
    match instrOf d r.raw with
    | none => none
    | some i =>
      match i.record p c cat with
      | some (.ok r') => if r' = r then some i else none
      | _ => none

/-- The instruction a window decodes to, or the failure (40_dispatch.md R100); a row outside the opcode table
gives `none`. -/
def decodeInstr (p : Params) (c : Cfg) (cat : Catalog) (w : Window) (n : Nat) : Except Failure (Option Instr) :=
  match decodeWindow p c cat w n with
  | .error e => .error e
  | .ok r => .ok (identify p c cat r)

/-! ### The table's words -/

/-- The window of an instruction whose bits are `w`, numbered as `spec/opcode_table.json` numbers them: a row of at
most 16 bits is an `opcode16`, a longer one an `opcode32`, whose high half is the first word
(20_memory.md R49; notes/assumptions/14.md).  The bytes past the row are zero. -/
def tableWindow (nbits w : Nat) : Window :=
  Window.ofBytes (bytesOf (BitVec.ofNat 32 w) (if nbits ≤ 16 then .two else .four))

/-- The instruction the decoder reads from a table word, in the configuration of `State.reset`. -/
def decodeTableWord (nbits w : Nat) : Option Instr :=
  match decodeInstr Params.default Cfg.c28x catalogGK (tableWindow nbits w) 4 with
  | .ok i => i
  | .error _ => none

end Sys2Proof
end

