-- ==== Sys2Proof/Machine/Classify.lean ====
section
/-! DEFINITION. Sys2Proof/Machine/Classify.lean: the control-flow classifier (42_control_flow.md) as a function of a descriptor and
its record. -/

namespace Sys2Proof

/-- The sequential successor `next = addr_add(A, L)` (42_control_flow.md R151). -/
def nextAddr (p : Params) (d : Descriptor) (a : Nat) : Nat := p.addrAdd a d.length.bytes

/-- The value of the first field of a kind, from a record's field map (notes/assumptions/25.md). -/
def valueOfKind (d : Descriptor) (vals : Values) (k : FieldKind) : Option Int :=
  match d.fieldOfKind? (fun k' => decide (k' = k)) with
  | some f => lookupField vals f.name
  | none => none

/-- The base of a PC-relative target (42_control_flow.md R154). -/
def relBaseAddr (p : Params) (d : Descriptor) (a : Nat) : RelBase → Nat
  | .current => a
  | .next => nextAddr p d a

/-- The PC-relative target (42_control_flow.md R154); `none` for a row without a base (notes/assumptions/31.md). -/
def relTarget (p : Params) (d : Descriptor) (vals : Values) (a : Nat) : Option Nat :=
  match d.relBase, valueOfKind d vals .rel with
  | some base, some disp => some (p.addrAdd (relBaseAddr p d a base) disp)
  | _, _ => none

/-- The absolute target: the literal immediate (42_control_flow.md R155, R156), modulo `2^ADDR_WIDTH`
(notes/assumptions/7.md), whatever the width of the field (notes/assumptions/18.md). -/
def absTarget (p : Params) (d : Descriptor) (vals : Values) : Option Nat :=
  (valueOfKind d vals .abs22).map (p.addrAdd 0)

/-- The extended-bank target `XBANK + pma16` (42_control_flow.md R169), modulo `2^ADDR_WIDTH`
(notes/assumptions/7.md), whatever the width of the field (notes/assumptions/18.md). -/
def xbankTarget (p : Params) (d : Descriptor) (vals : Values) : Option Nat :=
  (valueOfKind d vals .pma16).map (p.addrAdd p.xbank.toNat)

/-- The target the class of a descriptor computes, `none` for a class that computes none or a record that lacks
the field (42_control_flow.md R154 to R156, R169). -/
def target (p : Params) (d : Descriptor) (vals : Values) (a : Nat) : Option Nat :=
  match d.cfClass with
  | .condRel => relTarget p d vals a
  | .jumpAbs => absTarget p d vals
  | .callAbs => absTarget p d vals
  | .jumpXbank => xbankTarget p d vals
  | .condXbank => xbankTarget p d vals
  | .callXbank => xbankTarget p d vals
  | _ => none

/-- The class computes a target. -/
def CfClass.hasTarget : CfClass → Bool
  | .condRel => true
  | .jumpAbs => true
  | .callAbs => true
  | .jumpXbank => true
  | .condXbank => true
  | .callXbank => true
  | _ => false

/-- The condition field of the record holds the code `UNC` (42_control_flow.md R157). -/
def isUnc (d : Descriptor) (vals : Values) : Bool := decide (valueOfKind d vals .cond = some (condUnc : Int))

/-- The edges of a conditional class: the TRUE and FALSE pair, or one unconditional edge for the code `UNC` under
`UNC_AS_UNCONDITIONAL` (42_control_flow.md R154, R157, R169). -/
def condEdges (p : Params) (d : Descriptor) (vals : Values) (a t : Nat) : List Edge :=
  if p.uncAsUnconditional && isUnc d vals then [.unconditional t]
  else [.taken t, .notTaken (nextAddr p d a)]

/-- The edge set of an instruction at `a`, in canonical order (42_control_flow.md R152 to R164, R167); `none`
only where the record lacks the field its class reads. -/
def edges (p : Params) (d : Descriptor) (vals : Values) (a : Nat) : Option (List Edge) :=
  match d.cfClass with
  | .none => some []
  | .jumpAbs => (target p d vals a).map (fun t => [.unconditional t])
  | .jumpXbank => (target p d vals a).map (fun t => [.unconditional t])
  | .condRel => (target p d vals a).map (condEdges p d vals a)
  | .condXbank => (target p d vals a).map (condEdges p d vals a)
  | .callAbs => (target p d vals a).map (fun t => [.call t])
  | .callXbank => (target p d vals a).map (fun t => [.call t])
  | .indBranch => some [.indirectBranch]
  | .indCall => some [.indirectCall]
  | .ret => some [.ret]
  | .trap => some [.trap]
  | .loopWait => some [.taken (nextAddr p d a), .notTaken a]
  | .repeated => some []

end Sys2Proof
end

