-- ==== Sys2Proof/Machine/Render.lean ====
section
/-! DEFINITION. Sys2Proof/Machine/Render.lean: the disassembly text renderer (43_render.md) as a function of a descriptor, its record
and the answer of the registry. -/

namespace Sys2Proof

/-- The separator token (43_render.md R177). -/
def sepToken : Token := ⟨.sep, ", "⟩

/-- The marker and its space (43_render.md R174). -/
def markerTokens : List Token := [⟨.marker, "||"⟩, textToken " "]

/-- The address a REL, ABS22 or PMA16 operand shows: the target of the descriptor's class (43_render.md R181); the
open label where the class computes none (notes/assumptions/12.md). -/
def shownAddress (p : Params) (d : Descriptor) (vals : Values) (a : Nat) (name : String) (v : Int) : Option Nat :=
  if d.cfClass.hasTarget then target p d vals a else some (Config.openLabel d name v a)

/-- The values that the text rules of a kind speak of: 16 conditions (30_encoding.md R79), 8 auxiliary registers (R81), and
no negative number but for a signed immediate (43_render.md R180, R188). -/
def FieldKind.shows : FieldKind → Int → Bool
  | .cond, v => decide (0 ≤ v ∧ v < 16)
  | .areg, v => decide (0 ≤ v ∧ v < 8)
  | .immS, _ => true
  | _, v => decide (0 ≤ v)

/-- The number a field is shown as: its value, or a free one outside its kind (notes/assumptions/27.md). -/
def shownNat (d : Descriptor) (f : Field) (v : Int) : Nat :=
  if f.kind.shows v then v.toNat else Config.outsideValue d f.name v

/-- The token of an auxiliary register field (43_render.md R178, 30_encoding.md R81).  No field kind names ARPn or XARn:
a row shows those by a fixed register (notes/assumptions/17.md). -/
def aregToken (d : Descriptor) (f : Field) (v : Int) : Token := (Reg.ar (BitVec.ofNat 3 (shownNat d f v))).token

/-- The tokens of a field shown by its kind (43_render.md R179 to R186).  A SHIFT field gives its half of a shift expression
where it stands in its operand, whatever stands before it (notes/assumptions/28.md). -/
def fieldTokens (p : Params) (d : Descriptor) (r : Decoded) (a : Nat) (f : Field) (v : Int) : Option (List Token) :=
  match f.kind with
  | .loc16 => (lookupField r.addr f.name).map Loc.tokens
  | .loc32 => (lookupField r.addr f.name).map Loc.tokens
  | .cond => some [⟨.cond, condName (shownNat d f v)⟩]
  | .rel => (shownAddress p d r.values a f.name v).map (fun t => [⟨.addr, hex t⟩])
  | .abs22 => (shownAddress p d r.values a f.name v).map (fun t => [⟨.addr, hex t⟩])
  | .pma16 => (shownAddress p d r.values a f.name v).map (fun t => [⟨.addr, hex t⟩])
  | .immU => some [⟨.intU, "#" ++ hex (shownNat d f v)⟩]
  | .immS => some [⟨.intS, signedHex v⟩]
  | .immAddr => some [⟨.addr, hex (shownNat d f v)⟩]
  | .immMmio => some [⟨.mmio, "*(" ++ hex (shownNat d f v) ++ ")"⟩]
  | .shift => some [textToken " << ", ⟨.intU, "#" ++ dec (shownNat d f v)⟩]
  | .mode8 => some (modeTokens (shownNat d f v))
  | .areg => some [aregToken d f v]

/-- The tokens of one part of an operand (43_render.md R178 to R187). -/
def partTokens (p : Params) (d : Descriptor) (r : Decoded) (a : Nat) : Part → Option (List Token)
  | .text t => some [textToken t]
  | .reg g => some [g.token]
  | .field name =>
    match d.field? name, lookupField r.values name with
    | some f, some v => fieldTokens p d r a f v
    | _, _ => none
  | .counter name =>
    match d.field? name, lookupField r.values name with
    | some f, some v =>
      if f.kind = .areg then some [aregToken d f v, textToken "--"] else none
    | _, _ => none

/-- The concatenation of the token lists of a list of pieces, `none` if one has none. -/
def concatTokens {α : Type} (f : α → Option (List Token)) : List α → Option (List Token)
  | [] => some []
  | x :: rest =>
    match f x, concatTokens f rest with
    | some ts, some us => some (ts ++ us)
    | _, _ => none

/-- The tokens of one operand. -/
def operandTokens (p : Params) (d : Descriptor) (r : Decoded) (a : Nat) (o : List Part) : Option (List Token) :=
  concatTokens (partTokens p d r a) o

/-- The operands in order, one separator between two (43_render.md R173, R177, R191). -/
def operandsTokens (p : Params) (d : Descriptor) (r : Decoded) (a : Nat) : List (List Part) → Option (List Token)
  | [] => some []
  | [o] => operandTokens p d r a o
  | o :: rest =>
    match operandTokens p d r a o, operandsTokens p d r a rest with
    | some ts, some us => some (ts ++ sepToken :: us)
    | _, _ => none

/-- Marker, mnemonic and space (43_render.md R173 to R176).  The mnemonic is the descriptor's text as it stands: a catalog
that gives it in lower case breaks R175, and no rule rejects it (notes/assumptions/29.md). -/
def headTokens (p : Params) (d : Descriptor) (marked : Bool) : List Token :=
  (if d.repeatable && marked then markerTokens else []) ++
  ⟨.mnemonic, d.mnemonic⟩ ::
  (if d.operands.isEmpty && !p.spaceWhenNoOperands then [] else [textToken " "])

/-- The token stream of a record at `a` (43_render.md R173); `marked` is the answer of `RAR.contains(A)`.  `none`
only where the record lacks a field an operand names. -/
def renderTokens (p : Params) (d : Descriptor) (r : Decoded) (a : Nat) (marked : Bool) : Option (List Token) :=
  (operandsTokens p d r a d.operands).map (fun ts => headTokens p d marked ++ ts)

/-- The first location field of a descriptor whose record holds no addressing descriptor for it
(43_render.md R189, 60_exceptions.md R255, D28). -/
def unresolvedField (d : Descriptor) (r : Decoded) : Option String :=
  match d.fields.find? (fun f => f.kind.locWidth?.isSome && (lookupField r.addr f.name).isNone) with
  | some f => some f.name
  | none => none

/-- The text of a listing line: the token texts in order (43_render.md R192). -/
def listingLine (ts : List Token) : String := String.join (ts.map Token.text)

end Sys2Proof
end

