-- ==== Sys2Proof/Machine/State.lean ====
section
/-! DEFINITION. Sys2Proof/Machine/State.lean: the state of one engine instance (10_state.md R20), the host's pending calls and the
values returned, the reasons a step can stop, and the state after reset (R39, 70_reset_and_hazards.md R266). -/

namespace Sys2Proof.Machine

/-- The state.  `cfg`, `catalog` and `rar` are the whole persistent state of an instance (10_state.md R20).  `params`
holds the parameters of 00_scope.md R10, which a model takes as arguments.  `calls` and `returns` are the model's own:
the host's calls in the order of the instants at which they take effect (20_memory.md R55), and what they returned,
oldest first (notes/assumptions/1.md). -/
structure State where
  cfg : Cfg
  catalog : Catalog
  rar : List Nat
  params : Params
  calls : List Call
  returns : List Reply
deriving DecidableEq, Repr

/-- Reasons for a fault.  There is none: no operation of the engine traps or stops it, and every failure is a returned
value (60_exceptions.md R250, R259). -/
inductive Fault : Type
deriving DecidableEq, Repr

/-- Reasons for a refusal. -/
inductive Refusal
  /-- Raised by an arm of `exec` for an instruction that has no meaning yet.  Safe: nothing is claimed of it. -/
  | notModelled (mnemonic : String)
  /-- Raised by a meaning when the instance's catalog holds no row for the instruction (44_catalog.md section 3: such a
  row never matches).  No step raises it.  Safe: the engine can hold no such instruction. -/
  | noSuchRow
  /-- Raised by classify and render for a record or a row outside their domain: an index past the catalog, or a field
  missing that the row's class or operands read, or a PC-relative row that gives no base (42_control_flow.md R165;
  93_implementation_defined.md `refuse`; notes/assumptions/8.md, 31.md).
  Safe: no record of a decode over a complete catalog raises it. -/
  | outsideDomain
deriving DecidableEq, Repr

/-- The registry's canonical form: strictly rising addresses on the `ADDR_WIDTH` lines, so that equal sets are equal
lists (10_state.md R27). -/
abbrev RarWf (p : Params) (r : List Nat) : Prop := r.Pairwise (· < ·) ∧ ∀ a ∈ r, a < 2 ^ p.addrWidth

/-- A new instance: validate the catalog, fix the flags, and create the registry empty (70_reset_and_hazards.md R265
to R267).  A catalog that fails gives `F_CATALOG_AMBIGUOUS` and no instance. -/
def State.create (c : Cfg) (p : Params) (cat : Catalog) (allow : List (Nat × Nat)) : Except Failure State :=
  match firstBad allow 0 cat with
  | some (i, j) => .error (.catalogAmbiguous i j)
  | none => .ok { cfg := c, catalog := cat, rar := [], params := p, calls := [], returns := [] }

/-- The machine right after reset: a new instance of the native variant C28X over the default catalog and parameters,
with an empty registry (10_state.md R39; notes/assumptions/2.md names the variant), and no call made yet. -/
def State.reset : State where
  cfg := Cfg.c28x
  catalog := catalogGK
  rar := []
  params := Params.default
  calls := []
  returns := []

end Sys2Proof.Machine
end

