-- ==== Sys2Proof/Machine/Ops.lean ====
section
/-! DEFINITION. Sys2Proof/Machine/Ops.lean: the registry primitives (10_state.md R27), returning a value or a failure to the caller
(60_exceptions.md R250), and the operations as steps: decode, resolve, classify and render on the call at the head. -/

namespace Sys2Proof.Machine

/-! ### The Repeat Address Registry -/

/-- `RAR.insert` on the ordered list; a member is left as it is (10_state.md R27). -/
def rarInsert (a : Nat) : List Nat → List Nat
  | [] => [a]
  | b :: rest => if a < b then a :: b :: rest else if a = b then b :: rest else b :: rarInsert a rest

/-- `RAR.contains` (10_state.md R27). -/
def rarContains (r : List Nat) (a : Nat) : Bool := decide (a ∈ r)

/-- The registry effect of classifying a row at `a`: the insert of `next` for `CF_REPEAT`, and nothing else
(42_control_flow.md R164, R168). -/
def State.noteRepeat (s : State) (d : Descriptor) (a : Nat) : State :=
  if d.cfClass = .repeated then { s with rar := rarInsert (nextAddr s.params d a) s.rar } else s

/-! ### Returning to the caller -/

/-- The call at the head returns a value and is done. -/
def State.answer (s : State) (r : Reply) : State :=
  { s with calls := s.calls.tail, returns := s.returns ++ [r] }

/-- The call at the head returns a failure value; nothing else changes (60_exceptions.md R250, R259). -/
def State.fail (s : State) (a : Nat) (f : Failure) : State := s.answer (.failed (s.params.addr a) f)

/-- The host's next calls, ahead of those already pending. -/
def State.follow (s : State) (cs : List Call) : State := { s with calls := cs ++ s.calls }

/-! ### The operations -/

/-- The outcome type of a step. -/
abbrev Out := Host.Outcome State Fault Refusal

/-- Decode returns the record (40_dispatch.md R111). -/
def answerDecode (r : Decoded) (a : Nat) (s : State) : Out := .next (s.answer (.decoded (s.params.addr a) r))

/-- The decode of an `analyse` call returns the record; the host's calls of classify and render on it follow
(95_test_vectors.md section 8). -/
def answerAnalyse (r : Decoded) (a : Nat) (s : State) : Out :=
  .next ((s.answer (.decoded (s.params.addr a) r)).follow [.classify r a, .render r a])

/-- Classify: length, edges and the registry effect (42_control_flow.md R150). -/
def answerClassify (r : Decoded) (a : Nat) (s : State) : Out :=
  match s.catalog[r.desc]? with
  | none => .refused .outsideDomain
  | some d =>
    match edges s.params d r.values (s.params.addr a) with
    | none => .refused .outsideDomain
    | some es => .next ((s.noteRepeat d (s.params.addr a)).answer (.classified (s.params.addr a) d.length es))

/-- Render: the token stream, or `F_RENDER_UNRESOLVED` (43_render.md R170, R171, R189). -/
def answerRender (r : Decoded) (a : Nat) (s : State) : Out :=
  match s.catalog[r.desc]? with
  | none => .refused .outsideDomain
  | some d =>
    match unresolvedField d r with
    | some f => .next (s.fail a (.renderUnresolved f))
    | none =>
      match renderTokens s.params d r (s.params.addr a) (rarContains s.rar (s.params.addr a)) with
      | none => .refused .outsideDomain
      | some ts => .next (s.answer (.rendered (s.params.addr a) d.length ts))

/-- A step that concerns no record: a resolve call is answered (41_addressing.md R115); with no call the engine does
nothing (60_exceptions.md R262). -/
def serveOther (s : State) : Out :=
  match s.calls with
  | .resolve b w :: _ => .next (s.answer (.resolved b w (resolveAnswer s.params s.cfg.amode w b)))
  | _ => .next s

/-- The call at the head is served for a record, or for the failure that decode met. -/
def serve (r : Except Failure Decoded) (s : State) : Out :=
  match s.calls, r with
  | .decode _ _ a :: _, .ok r => answerDecode r a s
  | .decode _ _ a :: _, .error f => .next (s.fail a f)
  | .analyse _ _ a :: _, .ok r => answerAnalyse r a s
  | .analyse _ _ a :: _, .error f => .next (s.fail a f)
  | .classify _ a :: _, .ok r => answerClassify r a s
  | .classify _ a :: _, .error f => .next (s.fail a f)
  | .render _ a :: _, .ok r => answerRender r a s
  | .render _ a :: _, .error f => .next (s.fail a f)
  | _, _ => serveOther s

/-- What the call at the head is about: the record its window decodes to or the failure, or the record handed in;
`none` for a resolve call and with no call. -/
def headRecord (s : State) : Option (Except Failure Decoded) :=
  match s.calls with
  | .decode w n _ :: _ => some (decodeWindow s.params s.cfg s.catalog w n)
  | .analyse w n _ :: _ => some (decodeWindow s.params s.cfg s.catalog w n)
  | .classify r _ :: _ => some (.ok r)
  | .render r _ :: _ => some (.ok r)
  | _ => none

/-! ### An instruction at the call at the head -/

/-- The call at the head is served for the instruction whose row of the catalog satisfies `sel` and whose opcode value
in that row is `word`. -/
def serveRow (sel : Descriptor → Bool) (word : Descriptor → Op32) (s : State) : Out :=
  match findRow sel s.catalog 0 with
  | none => .refused .noSuchRow
  | some (k, d) => serve (finish s.params s.cfg k d (word d)) s

/-- `serveRow` for a row of `CATALOG_GK` with the given field values, in field order. -/
def serveKnown (row : Descriptor) (vals : List Nat) (s : State) : Out :=
  serveRow (isRow row) (fun d => d.assemble vals) s

end Sys2Proof.Machine
end

