-- ==== Sys2Proof/Machine/Branch.lean ====
section
/-! DEFINITION. Sys2Proof/Machine/Branch.lean: the meanings of the branches and loop-wait rows (44_catalog.md R203, R209, R218, R222,
R223, R226, R227, R229, R230, R235 to R237). -/

namespace Sys2Proof.Machine

/-- R203: class CF_IND_BRANCH. -/
def execLbXar7 (s : State) : Out := serveKnown rowLbXar7 [] s

/-- R209: class CF_COND_REL, base Current, 8-bit displacement. -/
def execSb (cond : BitVec 4) (off8 : BitVec 8) (s : State) : Out := serveKnown rowSb [cond.toNat, off8.toNat] s

/-- R218: class CF_JUMP_ABS. -/
def execLb (imm22 : BitVec 22) (s : State) : Out := serveKnown rowLb [imm22.toNat] s

/-- R222: class CF_COND_REL, base Next, 16-bit displacement. -/
def execBanz (n : BitVec 3) (off16 : BitVec 16) (s : State) : Out := serveKnown rowBanz [n.toNat, off16.toNat] s

/-- R223: class CF_COND_REL, base Next, 16-bit displacement. -/
def execB (cond : BitVec 4) (off16 : BitVec 16) (s : State) : Out := serveKnown rowB [cond.toNat, off16.toNat] s

/-- R226: class CF_LOOP_WAIT; match and mask are the open parameter `ENC_LOOPZ`. -/
def execLoopz (loc : Byte) (imm16 : BitVec 16) (s : State) : Out :=
  serveRow (isLoopRow "LOOPZ") (fun d => d.assemble [loc.toNat, imm16.toNat]) s

/-- R227: class CF_LOOP_WAIT; match and mask are the open parameter `ENC_LOOPNZ`. -/
def execLoopnz (loc : Byte) (imm16 : BitVec 16) (s : State) : Out :=
  serveRow (isLoopRow "LOOPNZ") (fun d => d.assemble [loc.toNat, imm16.toNat]) s

/-- R229: class CF_JUMP_XBANK; open parameter `ENC_XB_ARP`. -/
def execXbArp (raw : Op32) (s : State) : Out := serveRow (isNamed "XB" .jumpXbank) (fun _ => raw) s

/-- R230: class CF_COND_XBANK; open parameter `ENC_XB_COND`. -/
def execXbCond (raw : Op32) (s : State) : Out := serveRow (isNamed "XB" .condXbank) (fun _ => raw) s

/-- R235: class CF_COND_REL, base Current; open parameter `ENC_SBF`. -/
def execSbf (raw : Op32) (s : State) : Out := serveRow (isNamedRel "SBF" .current) (fun _ => raw) s

/-- R236: class CF_COND_REL, base Next; open parameter `ENC_BAR`. -/
def execBar (raw : Op32) (s : State) : Out := serveRow (isNamedRel "BAR" .next) (fun _ => raw) s

/-- R237: class CF_COND_REL, base Next; open parameter `ENC_BF`. -/
def execBf (raw : Op32) (s : State) : Out := serveRow (isNamedRel "BF" .next) (fun _ => raw) s

end Sys2Proof.Machine
end

