-- ==== Sys2Proof/Machine/CallReturn.lean ====
section
/-! DEFINITION. Sys2Proof/Machine/CallReturn.lean: the meanings of the calls and returns (44_catalog.md R198, R200 to R202, R219 to R221,
R231 to R234). -/

namespace Sys2Proof.Machine

/-- R198: class CF_RETURN. -/
def execLretr (s : State) : Out := serveKnown rowLretr [] s

/-- R200: class CF_RETURN. -/
def execIret (s : State) : Out := serveKnown rowIret [] s

/-- R201: class CF_RETURN. -/
def execLrete (s : State) : Out := serveKnown rowLrete [] s

/-- R202: class CF_RETURN. -/
def execLret (s : State) : Out := serveKnown rowLret [] s

/-- R219: class CF_CALL_ABS. -/
def execLc (imm22 : BitVec 22) (s : State) : Out := serveKnown rowLc [imm22.toNat] s

/-- R220: class CF_CALL_ABS. -/
def execFfc (imm22 : BitVec 22) (s : State) : Out := serveKnown rowFfc [imm22.toNat] s

/-- R221: class CF_CALL_ABS. -/
def execLcr (imm22 : BitVec 22) (s : State) : Out := serveKnown rowLcr [imm22.toNat] s

/-- R231: class CF_CALL_XBANK; open parameter `ENC_XCALL_ARP`. -/
def execXcallArp (raw : Op32) (s : State) : Out := serveRow (isNamed "XCALL" .callXbank) (fun _ => raw) s

/-- R232: class CF_RETURN; open parameter `ENC_XRETC`. -/
def execXretc (raw : Op32) (s : State) : Out := serveRow (isNamed "XRETC" .ret) (fun _ => raw) s

/-- R233: class CF_IND_CALL; open parameter `ENC_LC_XAR7`. -/
def execLcXar7 (raw : Op32) (s : State) : Out := serveRow (isNamed "LC" .indCall) (fun _ => raw) s

/-- R234: class CF_IND_CALL; open parameter `ENC_LCR_XARN`. -/
def execLcrXar (raw : Op32) (s : State) : Out := serveRow (isNamed "LCR" .indCall) (fun _ => raw) s

end Sys2Proof.Machine
end

