-- ==== Sys2Proof/Machine/Move.lean ====
section
/-! DEFINITION. Sys2Proof/Machine/Move.lean: the meanings of MOVL, MOV, ADDB and IN (44_catalog.md R212 to R217, R224, R225). The
engine moves no data (00_scope.md R7). -/

namespace Sys2Proof.Machine

/-- R212: a 32-bit location byte. -/
def execMovlAccLoc (loc : Byte) (s : State) : Out := serveKnown rowMovlAccLoc [loc.toNat] s

/-- R213: a 16-bit location byte. -/
def execMovAlLoc (loc : Byte) (s : State) : Out := serveKnown rowMovAlLoc [loc.toNat] s

/-- R214: a 16-bit location byte. -/
def execMovAhLoc (loc : Byte) (s : State) : Out := serveKnown rowMovAhLoc [loc.toNat] s

/-- R215: a 16-bit location byte, repeatable. -/
def execMovLocAl (loc : Byte) (s : State) : Out := serveKnown rowMovLocAl [loc.toNat] s

/-- R216: a 16-bit location byte, repeatable. -/
def execMovLocAh (loc : Byte) (s : State) : Out := serveKnown rowMovLocAh [loc.toNat] s

/-- R217: an unsigned immediate. -/
def execAddb (imm8 : BitVec 8) (s : State) : Out := serveKnown rowAddb [imm8.toNat] s

/-- R224: an immediate and a shift amount. -/
def execMovAccImm (shift : BitVec 4) (imm16 : BitVec 16) (s : State) : Out :=
  serveKnown rowMovAccImm [shift.toNat, imm16.toNat] s

/-- R225: a 16-bit location byte and an I/O port address. -/
def execInLoc (loc : Byte) (pa : BitVec 16) (s : State) : Out := serveKnown rowInLoc [loc.toNat, pa.toNat] s

end Sys2Proof.Machine
end

