-- ==== Sys2Proof/Machine/Repeat.lean ====
section
/-! DEFINITION. Sys2Proof/Machine/Repeat.lean: the meanings of RPT and RPTB, whose classification inserts `A+L` into the registry
(44_catalog.md R210, R211, R228; 42_control_flow.md R164). -/

namespace Sys2Proof.Machine

/-- R210: class CF_REPEAT, operand `imm8`. -/
def execRptImm (imm8 : BitVec 8) (s : State) : Out := serveKnown rowRptImm [imm8.toNat] s

/-- R211: class CF_REPEAT, a 16-bit location byte. -/
def execRptLoc (loc : Byte) (s : State) : Out := serveKnown rowRptLoc [loc.toNat] s

/-- R228: class CF_REPEAT; encoding, length and fields are the open parameter `ENC_RPTB`. -/
def execRptb (raw : Op32) (s : State) : Out := serveRow (isNamed "RPTB" .repeated) (fun _ => raw) s

end Sys2Proof.Machine
end

