-- ==== Sys2Proof/Machine/System.lean ====
section
/-! DEFINITION. Sys2Proof/Machine/System.lean: the meanings of ITRAP0, ITRAP1, ABORTI, TRAP, INTR, EINT, DINT, CLRC, SETC and NOP.
The engine decodes, classifies and renders them; it takes no trap and applies no flag (60_exceptions.md R261, R262). -/

namespace Sys2Proof.Machine

/-- R195: class CF_NONE. -/
def execItrap0 (s : State) : Out := serveKnown rowItrap0 [] s

/-- R196: class CF_NONE. -/
def execItrap1 (s : State) : Out := serveKnown rowItrap1 [] s

/-- R197: class CF_NONE. -/
def execAborti (s : State) : Out := serveKnown rowAborti [] s

/-- R199: class CF_TRAP, operand `n`. -/
def execTrap (n : BitVec 5) (s : State) : Out := serveKnown rowTrap [n.toNat] s

/-- R204: class CF_NONE, repeatable. -/
def execNop (s : State) : Out := serveKnown rowNop [] s

/-- R205: class CF_NONE, the specific form of CLRC INTM. -/
def execEint (s : State) : Out := serveKnown rowEint [] s

/-- R206: class CF_NONE, the flag list of `mode`. -/
def execClrc (mode : BitVec 8) (s : State) : Out := serveKnown rowClrc [mode.toNat] s

/-- R207: class CF_NONE, the specific form of SETC INTM. -/
def execDint (s : State) : Out := serveKnown rowDint [] s

/-- R208: class CF_NONE, the flag list of `mode`. -/
def execSetc (mode : BitVec 8) (s : State) : Out := serveKnown rowSetc [mode.toNat] s

/-- R238: class CF_TRAP; encoding and fields are the open parameter `ENC_INTR`. -/
def execIntr (raw : Op32) (s : State) : Out := serveRow (isNamed "INTR" .trap) (fun _ => raw) s

end Sys2Proof.Machine
end

