-- ==== Sys2Proof/Machine/Dispatch.lean ====
section
/-! DEFINITION. Sys2Proof/Machine/Dispatch.lean: one arm per constructor of Instr, each a direct call of its meaning. -/

namespace Sys2Proof.Machine

def exec (i : Instr) (s : State) : Host.Outcome State Fault Refusal :=
  match i with
  | .itrap0 => Sys2Proof.Machine.execItrap0 s
  | .itrap1 => Sys2Proof.Machine.execItrap1 s
  | .aborti => Sys2Proof.Machine.execAborti s
  | .lretr => Sys2Proof.Machine.execLretr s
  | .trap n => Sys2Proof.Machine.execTrap n s
  | .iret => Sys2Proof.Machine.execIret s
  | .lrete => Sys2Proof.Machine.execLrete s
  | .lret => Sys2Proof.Machine.execLret s
  | .lbXar7 => Sys2Proof.Machine.execLbXar7 s
  | .nop => Sys2Proof.Machine.execNop s
  | .eint => Sys2Proof.Machine.execEint s
  | .clrc mode => Sys2Proof.Machine.execClrc mode s
  | .dint => Sys2Proof.Machine.execDint s
  | .setc mode => Sys2Proof.Machine.execSetc mode s
  | .sb cond off8 => Sys2Proof.Machine.execSb cond off8 s
  | .rptImm imm8 => Sys2Proof.Machine.execRptImm imm8 s
  | .rptLoc loc => Sys2Proof.Machine.execRptLoc loc s
  | .movlAccLoc loc => Sys2Proof.Machine.execMovlAccLoc loc s
  | .movAlLoc loc => Sys2Proof.Machine.execMovAlLoc loc s
  | .movAhLoc loc => Sys2Proof.Machine.execMovAhLoc loc s
  | .movLocAl loc => Sys2Proof.Machine.execMovLocAl loc s
  | .movLocAh loc => Sys2Proof.Machine.execMovLocAh loc s
  | .addb imm8 => Sys2Proof.Machine.execAddb imm8 s
  | .lb imm22 => Sys2Proof.Machine.execLb imm22 s
  | .lc imm22 => Sys2Proof.Machine.execLc imm22 s
  | .ffc imm22 => Sys2Proof.Machine.execFfc imm22 s
  | .lcr imm22 => Sys2Proof.Machine.execLcr imm22 s
  | .banz n off16 => Sys2Proof.Machine.execBanz n off16 s
  | .b cond off16 => Sys2Proof.Machine.execB cond off16 s
  | .movAccImm shift imm16 => Sys2Proof.Machine.execMovAccImm shift imm16 s
  | .inLoc loc pa => Sys2Proof.Machine.execInLoc loc pa s
  | .loopz loc imm16 => Sys2Proof.Machine.execLoopz loc imm16 s
  | .loopnz loc imm16 => Sys2Proof.Machine.execLoopnz loc imm16 s
  | .rptb raw => Sys2Proof.Machine.execRptb raw s
  | .xbArp raw => Sys2Proof.Machine.execXbArp raw s
  | .xbCond raw => Sys2Proof.Machine.execXbCond raw s
  | .xcallArp raw => Sys2Proof.Machine.execXcallArp raw s
  | .xretc raw => Sys2Proof.Machine.execXretc raw s
  | .lcXar7 raw => Sys2Proof.Machine.execLcXar7 raw s
  | .lcrXar raw => Sys2Proof.Machine.execLcrXar raw s
  | .sbf raw => Sys2Proof.Machine.execSbf raw s
  | .bar raw => Sys2Proof.Machine.execBar raw s
  | .bf raw => Sys2Proof.Machine.execBf raw s
  | .intr raw => Sys2Proof.Machine.execIntr raw s

end Sys2Proof.Machine
end

