-- ==== Sys2Proof/Machine/Step.lean ====
section
/-! DEFINITION. Sys2Proof/Machine/Step.lean: one step of the machine, which is one operation taking effect (92_eei_decisions.md D26),
and the placing of one instruction for the next step. -/

namespace Sys2Proof.Machine

/-- One step: the call at the head takes effect.  A record of an instruction of the opcode table goes through `exec`; a
row outside the table is served by the same operations without it. -/
def step (s : State) : Host.Outcome State Fault Refusal :=
  match headRecord s with
  | none => serveOther s
  | some (.error f) => serve (.error f) s
  | some (.ok r) =>
    match identify s.params s.cfg s.catalog r with
    | some i => exec i s
    | none => serve (.ok r) s

/-- The state in which the host has just called for the instruction with the given table bits, at address 0: an
`analyse` call with a full four-byte window stands at the head (notes/assumptions/13.md).  The next step decodes it;
the two after it classify and render it. -/
def State.withFetchWord (s : State) (nbits w : Nat) : State :=
  { s with calls := .analyse (tableWindow nbits w) 4 0 :: s.calls }

end Sys2Proof.Machine
end

