-- ==== Sys2Proof/Safety.lean ====
section
/-! DEFINITION. Sys2Proof/Safety.lean: what counts as a good state of an instance, in the terms the statements use. -/

namespace Sys2Proof.Machine

/-- A record fits a catalog: its index names a row, and it holds a value for every field of that row.  It may lack an
addressing descriptor: render answers such a record with a failure (43_render.md R189). -/
def recordFits (cat : Catalog) (r : Decoded) : Bool :=
  match cat[r.desc]? with
  | none => false
  | some d => d.fields.all (fun f => (lookupField r.values f.name).isSome)

/-- A pending call hands in only a record that fits (42_control_flow.md R165). -/
def callFits (cat : Catalog) : Call → Bool
  | .classify r _ => recordFits cat r
  | .render r _ => recordFits cat r
  | .decode _ _ _ => true
  | .analyse _ _ _ => true
  | .resolve _ _ => true

/-- A good state: parameters in their domain, a catalog whose rows have the fields their class and operands read, a
registry in canonical form, and calls whose records fit. -/
structure State.Good (s : State) : Prop where
  params : s.params.wf
  catalog : s.catalog.complete
  rar : RarWf s.params s.rar
  calls : ∀ c ∈ s.calls, callFits s.catalog c = true

/-- A safe run of `k` steps: no step of it stops. -/
def SafeFor (k : Nat) (s : State) : Prop := ∃ t, core.run k s = .next t

end Sys2Proof.Machine
end

