-- ==== Sys2Proof/Certificates/Slice0/Obligations.lean ====
section
/-! DEFINITION. Sys2Proof/Certificates/Slice0/Obligations.lean: the statements for the provers, taken from the numbered rules of spec/. -/

namespace Sys2Proof.Machine

/-! ### The terms of the statements -/

/-- The address `a` as the `ADDR_WIDTH` lines of the instance carry it (00_scope.md R16). -/
abbrev lines (s : State) (a : Nat) : Nat := a % 2 ^ s.params.addrWidth

/-- `row` stands in the catalog, first at index `k`. -/
def RowAt (cat : Catalog) (row : Descriptor) (k : Nat) : Prop :=
  cat[k]? = some row ∧ ∀ j < k, cat[j]? ≠ some row

/-- `d` is the first row of the catalog that satisfies `P`, at index `k`. -/
def FirstAt (cat : Catalog) (P : Descriptor → Prop) (k : Nat) (d : Descriptor) : Prop :=
  cat[k]? = some d ∧ P d ∧ ∀ j < k, ∀ e, cat[j]? = some e → ¬ P e

/-- The first named row: mnemonic and class (44_catalog.md section 3). -/
def NamedAt (cat : Catalog) (mnemonic : String) (cls : CfClass) (k : Nat) (d : Descriptor) : Prop :=
  FirstAt cat (fun e => e.mnemonic = mnemonic ∧ e.cfClass = cls) k d

/-- The first named PC-relative row: mnemonic, class and base (44_catalog.md R235 to R237). -/
def NamedRelAt (cat : Catalog) (mnemonic : String) (base : RelBase) (k : Nat) (d : Descriptor) : Prop :=
  FirstAt cat (fun e => e.mnemonic = mnemonic ∧ e.cfClass = .condRel ∧ e.relBase = some base) k d

/-- The first loop-wait row of a mnemonic: class, length 4, the two fields and the listing shape of
44_catalog.md R226. -/
def LoopAt (cat : Catalog) (mnemonic : String) (k : Nat) (d : Descriptor) : Prop :=
  FirstAt cat (fun e => e.mnemonic = mnemonic ∧ e.cfClass = .loopWait ∧ e.length = .four ∧
    e.fields = [⟨"loc", 16, 8, .loc16⟩, ⟨"imm16", 0, 16, .immU⟩] ∧
    e.operands = [[.field "loc"], [.field "imm16"]]) k d

/-- The state after the call at the head has returned `r`: `rest` is pending, and nothing else has changed. -/
abbrev returned (s : State) (rest : List Call) (r : Reply) : State :=
  { s with calls := rest, returns := s.returns ++ [r] }

/-- The instruction completes at every operation the host can call for it at `a`: decode returns the record `r`;
analyse returns it and leaves the host's two calls on it pending; classify returns the length and the edges `es`,
and the registry becomes `rar'`; render returns the tokens `ts`.  In each case nothing else changes. -/
def Completes (i : Instr) (s : State) (a : Nat) (r : Decoded) (es : List Edge) (rar' : List Nat)
    (ts : List Token) : Prop :=
  (∀ w n rest, s.calls = .decode w n a :: rest →
    exec i s = .next (returned s rest (.decoded (lines s a) r))) ∧
  (∀ w n rest, s.calls = .analyse w n a :: rest →
    exec i s = .next (returned s (.classify r a :: .render r a :: rest) (.decoded (lines s a) r))) ∧
  (∀ q rest, s.calls = .classify q a :: rest →
    exec i s = .next { returned s rest (.classified (lines s a) r.length es) with rar := rar' }) ∧
  (∀ q rest, s.calls = .render q a :: rest →
    exec i s = .next (returned s rest (.rendered (lines s a) r.length ts)))

/-- Mnemonic and space (43_render.md R175, R176). -/
def mnemonicTokens (m : String) : List Token := [⟨.mnemonic, m⟩, ⟨.text, " "⟩]

/-- The stream of a row with no operand: the space follows under `SPACE_WHEN_NO_OPERANDS` (43_render.md R176). -/
def bareTokens (s : State) (m : String) : List Token :=
  ⟨.mnemonic, m⟩ :: (if s.params.spaceWhenNoOperands then [⟨.text, " "⟩] else [])

/-- The marker of a repeatable row at a registered address (43_render.md R174). -/
def markerAt (s : State) (a : Nat) : List Token :=
  if lines s a ∈ s.rar then [⟨.marker, "||"⟩, ⟨.text, " "⟩] else []

/-- The edges of a conditional form (42_control_flow.md R154, R157). -/
def conditionalEdges (s : State) (unc : Prop) [Decidable unc] (target next : Nat) : List Edge :=
  if s.params.uncAsUnconditional = true ∧ unc then [.unconditional target] else [.taken target, .notTaken next]

/-- A row is accepted in one pass: length, structural match (40_dispatch.md R102) and mode (R103). -/
def Accepted (mode : Bool) (len : Len) (op : Op32) (d : Descriptor) : Prop :=
  d.length = len ∧ op &&& d.mask = d.opcode ∧
    (d.mode = .any ∨ (d.mode = .mode0 ∧ mode = false) ∨ (d.mode = .mode1 ∧ mode = true))

/-- A well-formed row (30_encoding.md R66, R67, R68): no opcode bit outside the mask; a 2-byte row below `2^16`; every field
outside the mask and inside the encoding; no two fields overlap (of two fields one ends where the other begins, or before:
for a field of width 0 that is the model's choice, notes/assumptions/30.md). -/
def RowWf (d : Descriptor) : Prop :=
  d.opcode &&& ~~~ d.mask = 0 ∧
  (d.length = .two → d.mask.toNat < 2 ^ 16 ∧ d.opcode.toNat < 2 ^ 16) ∧
  (∀ f ∈ d.fields, BitVec.ofNat 32 ((2 ^ f.width - 1) <<< f.lo) &&& d.mask = 0 ∧
    f.lo + f.width ≤ 8 * d.length.bytes) ∧
  d.fields.Pairwise (fun f g => f.lo + f.width ≤ g.lo ∨ g.lo + g.width ≤ f.lo)

/-- A location field and the operand width of its kind (40_dispatch.md R108). -/
def IsLoc (f : Field) (w : LocWidth) : Prop := (f.kind = .loc16 ∧ w = .w16) ∨ (f.kind = .loc32 ∧ w = .w32)

/-- The location byte of a field (its low 8 bits, should a catalog give it another width: notes/assumptions/18.md). -/
abbrev locByte (f : Field) (op : Op32) : Byte := BitVec.ofNat 8 (f.get op)

/-- `f` is the field whose assignment to its name is the last (40_dispatch.md R108). -/
def LastNamed (fs : List Field) (f : Field) : Prop :=
  ∃ pre post, fs = pre ++ f :: post ∧ ∀ g ∈ post, g.name ≠ f.name

/-- The byte resolves to a form with this record and this token list (41_addressing.md R115). -/
def Lists (p : Params) (m : Bool) (w : LocWidth) (b : Byte) (record : AddressingDescriptor) (ts : List Token) : Prop :=
  ∃ l, resolve p m w b = some l ∧ l.descriptor = record ∧ l.tokens = ts

/-- The target that the class of `d` computes at `A` is `t` (42_control_flow.md R154 to R156, R169). -/
def TargetIs (s : State) (d : Descriptor) (r : Decoded) (A t : Nat) : Prop :=
  match d.cfClass with
  | .condRel => ∃ v, valueOfKind d r.values .rel = some v ∧
      ((d.relBase = some .current ∧ t = s.params.addrAdd A v) ∨
        (d.relBase = some .next ∧ t = s.params.addrAdd (s.params.addrAdd A d.length.bytes) v))
  | .jumpAbs | .callAbs => ∃ v, valueOfKind d r.values .abs22 = some v ∧ t = s.params.addrAdd 0 v
  | .jumpXbank | .condXbank | .callXbank =>
      ∃ v, valueOfKind d r.values .pma16 = some v ∧ t = s.params.addrAdd s.params.xbank.toNat v
  | _ => False

/-- The tokens of a field with value `v` by its kind, for the values the rules speak of (43_render.md R179 to R187). -/
def FieldShows (s : State) (d : Descriptor) (r : Decoded) (A : Nat) (f : Field) (v : Int) (ts : List Token) : Prop :=
  match f.kind with
  | .loc16 | .loc32 => ∃ l, lookupField r.addr f.name = some l ∧ ts = l.tokens
  | .cond => 0 ≤ v ∧ v < 16 ∧ ts = [⟨.cond, condName v.toNat⟩]
  | .rel | .abs22 | .pma16 => ∃ t, TargetIs s d r A t ∧ ts = [⟨.addr, hex t⟩]
  | .immU => 0 ≤ v ∧ ts = [⟨.intU, "#" ++ hex v.toNat⟩]
  | .immS => (0 ≤ v ∧ ts = [⟨.intS, "#" ++ hex v.toNat⟩]) ∨ (v < 0 ∧ ts = [⟨.intS, "#-" ++ hex (-v).toNat⟩])
  | .immAddr => 0 ≤ v ∧ ts = [⟨.addr, hex v.toNat⟩]
  | .immMmio => 0 ≤ v ∧ ts = [⟨.mmio, "*(" ++ hex v.toNat ++ ")"⟩]
  | .shift => 0 ≤ v ∧ ts = [⟨.text, " << "⟩, ⟨.intU, "#" ++ dec v.toNat⟩]
  | .mode8 => 0 ≤ v ∧ ts = modeTokens v.toNat
  | .areg => 0 ≤ v ∧ v < 8 ∧ ts = [⟨.reg, "AR" ++ dec v.toNat⟩]

/-- The tokens of one part of an operand (10_state.md R26, 43_render.md R178, R187). -/
def PartShows (s : State) (d : Descriptor) (r : Decoded) (A : Nat) : Part → List Token → Prop
  | .text t, ts => ts = [⟨.text, t⟩]
  | .reg g, ts => ts = [⟨.reg, g.name⟩]
  | .field name, ts => ∃ f v, LastNamed d.fields f ∧ f.name = name ∧ lookupField r.values name = some v ∧
      FieldShows s d r A f v ts
  | .counter name, ts => ∃ f v, LastNamed d.fields f ∧ f.name = name ∧ lookupField r.values name = some v ∧
      f.kind = .areg ∧ 0 ≤ v ∧ v < 8 ∧ ts = [⟨.reg, "AR" ++ dec v.toNat⟩, ⟨.text, "--"⟩]

end Sys2Proof.Machine

open Sys2Proof Sys2Proof.Machine

/-! ### Byte order, address arithmetic and the codec -/

/-- 20_memory.md R47, R48, R49: both compositions as numbers, and the first word as the high half. -/
def Obligations.OpcodeWordsFromWindowBytes : Prop :=
  ∀ w : Window,
    w.opcode16.toNat = w.w1.toNat * 2 ^ 8 + w.w0.toNat ∧
    w.opcode32.toNat = w.w1.toNat * 2 ^ 24 + w.w0.toNat * 2 ^ 16 + w.w3.toNat * 2 ^ 8 + w.w2.toNat ∧
    w.opcode32.extractLsb' 16 16 = w.opcode16

/-- 00_scope.md R14: `addr_add` is addition modulo `2^ADDR_WIDTH`, for a displacement of either sign. -/
def Obligations.AddrAddIsModular : Prop :=
  ∀ (p : Params) (a : Nat) (d : Int),
    p.addrAdd a d < 2 ^ p.addrWidth ∧ ∃ k : Int, (p.addrAdd a d : Int) = a + d + k * 2 ^ p.addrWidth

/-- 30_encoding.md R73 with R68: the round trip on a template with the field clear; every well-formed descriptor's
opcode is such a template; and setting a second field leaves the first. -/
def Obligations.CodecRoundTripOnClearTemplate : Prop :=
  (∀ (f : Field) (t : Op32) (v : Nat), f.lo + f.width ≤ 32 → f.get t = 0 →
    f.get (f.set t v) = v &&& (2 ^ f.width - 1)) ∧
  (∀ (f : Field) (t : Op32) (v : Nat), f.lo + f.width ≤ 32 → f.get t = 0 → v ≤ 2 ^ f.width - 1 →
    f.get (f.set t v) = v) ∧
  (∀ d : Descriptor, d.wf = true → ∀ f ∈ d.fields, f.get d.opcode = 0) ∧
  (∀ (f g : Field) (t : Op32) (v : Nat), f.disjoint g = true → f.get (g.set t v) = f.get t)

/-- 30_encoding.md R74: the setter keeps only the low bits of a value that is too wide. -/
def Obligations.SetterTruncates : Prop :=
  ∀ (f : Field) (t : Op32) (v : Nat), f.set t v = f.set t (v % 2 ^ f.width)

/-- 00_scope.md R13, 30_encoding.md R75: `sext_N` is the signed value of the field's own `N` bits. -/
def Obligations.SignExtensionByFieldWidth : Prop :=
  ∀ n v : Nat, 0 < n →
    -(2 ^ (n - 1) : Int) ≤ sext n v ∧ sext n v < 2 ^ (n - 1) ∧
    sext n v = (v % 2 ^ n : Nat) - (if v.testBit (n - 1) then (2 ^ n : Int) else 0)

/-! ### The catalog and its validator -/

/-- 44_catalog.md R195 to R225: index, opcode, mask, length, repeatable flag and class of every row; every row has
mode Any and is not object-sensitive. -/
def Obligations.DefaultCatalogRowsAsListed : Prop :=
  catalogGK.map (fun d => (d.opcode.toNat, d.mask.toNat, d.length, d.repeatable, d.cfClass)) =
    [ (0x0000, 0xFFFF, .two, false, .none), (0xFFFF, 0xFFFF, .two, false, .none),
      (0x0001, 0xFFFF, .two, false, .none), (0x0006, 0xFFFF, .two, false, .ret),
      (0x0020, 0xFFE0, .two, false, .trap), (0x7602, 0xFFFF, .two, false, .ret),
      (0x7610, 0xFFFF, .two, false, .ret), (0x7614, 0xFFFF, .two, false, .ret),
      (0x7620, 0xFFFF, .two, false, .indBranch), (0x7700, 0xFFFF, .two, true, .none),
      (0x2910, 0xFFFF, .two, false, .none), (0x2900, 0xFF00, .two, false, .none),
      (0x3B10, 0xFFFF, .two, false, .none), (0x3B00, 0xFF00, .two, false, .none),
      (0x6000, 0xF000, .two, false, .condRel), (0xF600, 0xFF00, .two, false, .repeated),
      (0xF700, 0xFF00, .two, false, .repeated), (0x0600, 0xFF00, .two, false, .none),
      (0x9200, 0xFF00, .two, false, .none), (0x9300, 0xFF00, .two, false, .none),
      (0x9600, 0xFF00, .two, true, .none), (0x9700, 0xFF00, .two, true, .none),
      (0x0900, 0xFF00, .two, false, .none), (0x00400000, 0xFFC00000, .four, false, .jumpAbs),
      (0x00800000, 0xFFC00000, .four, false, .callAbs), (0x00C00000, 0xFFC00000, .four, false, .callAbs),
      (0x76400000, 0xFFC00000, .four, false, .callAbs), (0x00080000, 0xFFF80000, .four, false, .condRel),
      (0xFFE00000, 0xFFF00000, .four, false, .condRel), (0xFF200000, 0xFFF00000, .four, false, .none),
      (0xB4000000, 0xFF000000, .four, false, .none) ] ∧
  ∀ d ∈ catalogGK, d.mode = .any ∧ d.objSensitive = false

/-- 30_encoding.md R70: the overlap test says exactly that some value satisfies both matches, and the specialization
test that the earlier row's values are all values of the later, for rows whose opcode lies under the mask (R66). -/
def Obligations.OverlapMeansCommonValue : Prop :=
  ∀ d e : Descriptor, d.opcode &&& ~~~ d.mask = 0 → e.opcode &&& ~~~ e.mask = 0 →
    (d.overlaps e = true ↔ ∃ op, d.matches op = true ∧ e.matches op = true) ∧
    (d.specializes e = true ↔ ∀ op, d.matches op = true → e.matches op = true)

/-- 30_encoding.md R66 to R70: the validator accepts exactly the catalogs whose descriptors are well formed and whose
overlapping pairs of one length and compatible modes are allow-listed specializations.  That a field of width 0 strictly inside
another makes a row ill formed is the model's choice (notes/assumptions/30.md). -/
def Obligations.ValidatorAcceptsExactlyValidCatalogs : Prop :=
  ∀ (cat : Catalog) (allow : List (Nat × Nat)),
    cat.valid allow ↔
      (∀ d ∈ cat, RowWf d) ∧
      ∀ i j d e, i < j → cat[i]? = some d → cat[j]? = some e → d.length = e.length →
        (d.mode = e.mode ∨ d.mode = .any ∨ e.mode = .any) → d.overlaps e = true →
        d.specializes e = true ∧ (i, j) ∈ allow

/-- 44_catalog.md R239, R240: the default catalog is valid; its overlapping pairs of equal length are exactly the
allow-listed (10, 11) and (12, 13); and no 2-byte row matches the first word of a 4-byte row. -/
def Obligations.DefaultCatalogIsValid : Prop :=
  catalogGK.valid allowGK ∧ allowGK = [(10, 11), (12, 13)] ∧
  (∀ i j d e, i < j → catalogGK[i]? = some d → catalogGK[j]? = some e → d.length = e.length →
    (d.overlaps e = true ↔ (i, j) ∈ allowGK)) ∧
  (∀ i j d e, (i, j) ∈ allowGK → catalogGK[i]? = some d → catalogGK[j]? = some e →
    d.mask = 0xFFFF ∧ e.mask = 0xFF00 ∧ e.matches d.opcode = true ∧ d.specializes e = true) ∧
  (∀ d ∈ catalogGK, ∀ e ∈ catalogGK, d.length = .two → e.length = .four → ∀ w : Window,
    e.matches (w.opcode .four) = true → d.matches (w.opcode .two) = false)

/-- 70_reset_and_hazards.md R265 to R267, 30_encoding.md R70: creation over a valid catalog gives an instance with the given
flags, that catalog and an empty registry; over any other catalog it fails with `F_CATALOG_AMBIGUOUS`.  The empty lists of
calls and replies are the model's choice (notes/assumptions/1.md), and so is the pair that a failure names
(notes/assumptions/9.md). -/
def Obligations.CreationGivesEmptyRegistryOrFails : Prop :=
  ∀ (c : Cfg) (p : Params) (cat : Catalog) (allow : List (Nat × Nat)),
    (cat.valid allow → ∃ s, State.create c p cat allow = .ok s ∧ s.cfg = c ∧ s.catalog = cat ∧ s.params = p ∧
      s.rar = [] ∧ s.calls = [] ∧ s.returns = []) ∧
    (¬ cat.valid allow → ∃ i j, State.create c p cat allow = .error (.catalogAmbiguous i j))

/-- 10_state.md R39: the reset state is the created instance over the default catalog.  That it is the variant C28X is
the model's choice (notes/assumptions/2.md). -/
def Obligations.ResetIsCreatedInstance : Prop :=
  State.create Cfg.c28x Params.default catalogGK allowGK = .ok State.reset ∧
  State.reset.rar = [] ∧ State.reset.catalog = catalogGK ∧
  State.reset.cfg.objmode = true ∧ State.reset.cfg.amode = false ∧
  (Cfg.c27xObj = ⟨false, false⟩ ∧ Cfg.c28x = ⟨true, false⟩ ∧ Cfg.c2xlp = ⟨true, true⟩)

/-! ### The dispatcher -/

/-- 40_dispatch.md R101 to R105: short windows, the first accepted 2-byte row, the first accepted 4-byte row, no match.
A location field that does not resolve fails the decode inside `finish`, with no further search (R110). -/
def Obligations.DispatcherTriesTwoPasses : Prop :=
  ∀ (p : Params) (c : Cfg) (cat : Catalog) (w : Window) (n : Nat),
    let mode := match p.dispatchFlag with | .amode => c.amode | .objmode => c.objmode
    let acc16 := Accepted mode .two (w.opcode16.setWidth 32)
    let acc32 := Accepted mode .four w.opcode32
    (n < 2 → decodeWindow p c cat w n = .error (.windowShort n none)) ∧
    (∀ i d, 2 ≤ n → FirstAt cat acc16 i d → decodeWindow p c cat w n = finish p c i d (w.opcode16.setWidth 32)) ∧
    (2 ≤ n → n < 4 → (∀ d ∈ cat, ¬ acc16 d) →
      decodeWindow p c cat w n = .error (.windowShort n (some w.opcode16))) ∧
    (∀ i d, 4 ≤ n → (∀ e ∈ cat, ¬ acc16 e) → FirstAt cat acc32 i d →
      decodeWindow p c cat w n = finish p c i d w.opcode32) ∧
    (4 ≤ n → (∀ d ∈ cat, ¬ acc16 d) → (∀ d ∈ cat, ¬ acc32 d) →
      decodeWindow p c cat w n = .error (.noMatch w.opcode16 w.opcode32))

/-- 40_dispatch.md R108, R109, 60_exceptions.md R253, R258: the finished record names the row, its length and the opcode
value; each map holds the row's names alone, each once, with the last assignment: the codec's value, signed for REL and
IMM_S, and the resolved form of the location byte.  For an object-sensitive row (10_state.md R21) `OBJ_EFFECT` gives the values of
the same names, and nothing else of the record changes: that it is the values alone is the model's choice
(notes/assumptions/3.md).  The extraction fails exactly for the first location field whose byte does not resolve, with that
failure.  That a location field wider than 8 bits gives its low byte is the model's choice (notes/assumptions/18.md),
and so is the value 0 of a signed field of width 0 (notes/assumptions/30.md). -/
def Obligations.FinishExtractsEveryField : Prop :=
  ∀ (p : Params) (c : Cfg) (i : Nat) (d : Descriptor) (op : Op32),
    (∀ r, finish p c i d op = .ok r →
      r.desc = i ∧ r.length = d.length ∧ r.raw = op ∧
      (r.values.map Prod.fst).Nodup ∧ (r.addr.map Prod.fst).Nodup ∧
      (∀ name, lookupField r.values name ≠ none ↔ ∃ f ∈ d.fields, f.name = name) ∧
      (∀ name, lookupField r.addr name ≠ none ↔ ∃ f ∈ d.fields, ∃ w, IsLoc f w ∧ f.name = name) ∧
      (∀ f, d.objSensitive = false → LastNamed d.fields f →
        lookupField r.values f.name =
          some (if f.kind = .rel ∨ f.kind = .immS then sext f.width (f.get op) else (f.get op : Int))) ∧
      (∀ pre post f w, d.fields = pre ++ f :: post → IsLoc f w → (∀ g ∈ post, ∀ w', IsLoc g w' → g.name ≠ f.name) →
        lookupField r.addr f.name = resolve p c.amode w (locByte f op)) ∧
      (d.objSensitive = true → ∃ q, finish p c i { d with objSensitive := false } op = .ok q ∧
        r = { q with values := q.values.map (fun v => (v.1, Config.objEffect d c.objmode q.values v.1)) })) ∧
    (∀ e, finish p c i d op = .error e ↔
      ∃ pre post f w, d.fields = pre ++ f :: post ∧ IsLoc f w ∧ resolve p c.amode w (locByte f op) = none ∧
        (∀ g ∈ pre, ∀ w', IsLoc g w' → resolve p c.amode w' (locByte g op) ≠ none) ∧
        e = .addrResolve op f.name (locByte f op) c.amode w)

/-- 40_dispatch.md R113: decoding the bytes of a value that matches an accepted row of a valid catalog ends at one row `e`,
accepted for its own opcode value: that row, an allow-listed earlier specialization of its length, or a 2-byte row in place
of a 4-byte one, whose opcode value is the first word.  The result is a record of `e`, or `F_ADDR_RESOLVE` for a location
field of `e` whose byte does not resolve. -/
def Obligations.MatchingPropertyOfValidCatalogs : Prop :=
  ∀ (p : Params) (c : Cfg) (cat : Catalog) (allow : List (Nat × Nat)) (i : Nat) (d : Descriptor) (op : Op32),
    cat.valid allow → cat[i]? = some d → d.matches op = true → d.mode.accepts (activeMode p c) = true →
    ∃ (j : Nat) (e : Descriptor) (raw : Op32),
      cat[j]? = some e ∧ Accepted (activeMode p c) e.length raw e ∧
      (j = i ∨ (j < i ∧ e.length = d.length ∧ (j, i) ∈ allow) ∨ (d.length = .four ∧ e.length = .two)) ∧
      raw = (match d.length, e.length with
        | .four, .four => op
        | .four, .two => op >>> 16
        | .two, _ => op &&& 0xFFFF#32) ∧
      let result := decodeWindow p c cat (Window.ofBytes (bytesOf op d.length)) 4
      (∃ r, result = .ok r ∧ r.desc = j ∧ r.length = e.length ∧ r.raw = raw) ∨
      ∃ f ∈ e.fields, ∃ w, IsLoc f w ∧ resolve p c.amode w (locByte f raw) = none ∧
        result = .error (.addrResolve raw f.name (locByte f raw) c.amode w)

/-- 20_memory.md R45, R50: more than four valid bytes change nothing, and a 2-byte result depends on the first two
bytes alone. -/
def Obligations.DecodeReadsOnlyTheBytesItNeeds : Prop :=
  ∀ (p : Params) (c : Cfg) (cat : Catalog) (w : Window) (n : Nat),
    (4 ≤ n → decodeWindow p c cat w n = decodeWindow p c cat w 4) ∧
    ∀ r, decodeWindow p c cat w n = .ok r → r.length = .two → ∀ (w2 w3 : Byte) (m : Nat), 2 ≤ m →
      decodeWindow p c cat ⟨w.w0, w.w1, w2, w3⟩ m = .ok r

/-- Decode and encode agree on every well-formed instruction of the default catalog, under every parameter and
configuration and with every operand (30_encoding.md R73, 40_dispatch.md R113). -/
def Obligations.DecodeOfEncodeIsTheInstruction : Prop :=
  ∀ (p : Params) (c : Cfg) (i : Instr), i.wellFormed p c.amode = true →
    decodeInstr p c catalogGK (Window.ofBytes (encode i)) 4 = .ok (some i)

/-- Every decode over the default catalog that succeeds is a well-formed instruction of the opcode table whose encoding
is the bytes that were read (44_catalog.md section 3: no open row among them). -/
def Obligations.EncodeOfDecodeIsTheBytesRead : Prop :=
  ∀ (p : Params) (c : Cfg) (w : Window) (n : Nat) (r : Decoded), decodeWindow p c catalogGK w n = .ok r →
    ∃ i, decodeInstr p c catalogGK w n = .ok (some i) ∧ i.wellFormed p c.amode = true ∧
      encode i = (match r.length with | .two => [w.w0, w.w1] | .four => [w.w0, w.w1, w.w2, w.w3])

/-- Words written out from the encodings of 44_catalog.md decode to the instructions they stand for. -/
def Obligations.WrittenWordsDecode : Prop :=
  decodeTableWord 16 0b0111011100000000 = some .nop ∧
  decodeTableWord 16 0b0000000000100101 = some (.trap 5) ∧
  decodeTableWord 16 0b0110000111111101 = some (.sb 1 0xFD) ∧
  decodeTableWord 16 0b1111011000000011 = some (.rptImm 3) ∧
  decodeTableWord 16 0b1001011010000010 = some (.movLocAl 0x82) ∧
  decodeTableWord 32 0b01110110010100100011010001010110 = some (.lcr 0x123456) ∧
  decodeTableWord 32 0b00000000000010101111111111111100 = some (.banz 2 0xFFFC)

/-! ### The addressing-mode resolver -/

/-- 41_addressing.md R118 to R146: the form of every byte the table accepts, by its pattern, mode and width. -/
def Obligations.ResolverFormsByPattern : Prop :=
  ∀ (p : Params) (m : Bool) (w : LocWidth) (n k : BitVec 3) (o6 : BitVec 6) (o7 : BitVec 7),
    resolve p false w (0b00#2 ++ o6) = some (.directDp6 o6) ∧
    (p.directMode1Bits = .seven → resolve p true w (0b0#1 ++ o7) = some (.directDp7 o7)) ∧
    (p.directMode1Bits = .six → resolve p true w (0b00#2 ++ o6) = some (.directDp7 (0b0#1 ++ o6))) ∧
    resolve p false w (0b01#2 ++ o6) = some (.stackNeg6 o6) ∧
    resolve p m w 0xBD#8 = some .spPostInc ∧ resolve p m w 0xBE#8 = some .spPreDec ∧
    resolve p m w (0b10000#5 ++ n) = some (.xarPostInc n) ∧
    resolve p m w (0b10001#5 ++ n) = some (.xarPreDec n) ∧
    resolve p m w (0b10010#5 ++ n) = some (.xarIdxAr0 n) ∧
    resolve p m w (0b10011#5 ++ n) = some (.xarIdxAr1 n) ∧
    (p.arpDecorPriority = .afterCat5 ∨ k = 0#3 ∨ k = 7#3 →
      resolve p false w (0b11#2 ++ k ++ n) = some (.xarOff3 n k)) ∧
    resolve p m w 0xB8#8 = some .arpInd ∧ resolve p m w 0xB9#8 = some .arpPostInc ∧
    resolve p m w 0xBA#8 = some .arpPostDec ∧ resolve p m w 0xBB#8 = some .arpPostIncAr0 ∧
    resolve p m w 0xBC#8 = some .arpPostDecAr0 ∧ resolve p m w 0xAE#8 = some .arpBr0PostInc ∧
    resolve p m w 0xAF#8 = some .arpBr0PostDec ∧
    resolve p m w (0b10110#5 ++ n) = some (.arpSet n) ∧
    resolve p true w (0b11001#5 ++ n) = some (.arpSetPostInc n) ∧
    resolve p true w (0b11010#5 ++ n) = some (.arpSetPostDec n) ∧
    resolve p true w (0b11011#5 ++ n) = some (.arpSetPostIncAr0 n) ∧
    resolve p true w (0b11100#5 ++ n) = some (.arpSetPostDecAr0 n) ∧
    resolve p true w (0b11101#5 ++ n) = some (.arpSetBr0PostInc n) ∧
    resolve p true w (0b11110#5 ++ n) = some (.arpSetBr0PostDec n) ∧
    resolve p false w 0xBF#8 = some .circAr6 ∧ resolve p true w 0xBF#8 = some .circXar6Ar1 ∧
    resolve p m .w16 (0b10100#5 ++ n) = some (.reg16 (.ar n)) ∧
    resolve p m .w16 0xA8#8 = some (.reg16 .ah) ∧ resolve p m .w16 0xA9#8 = some (.reg16 .al) ∧
    resolve p m .w16 0xAA#8 = some (.reg16 .ph) ∧ resolve p m .w16 0xAB#8 = some (.reg16 .pl) ∧
    resolve p m .w16 0xAC#8 = some (.reg16 .th) ∧ resolve p m .w16 0xAD#8 = some (.reg16 .sp) ∧
    resolve p m .w32 (0b10100#5 ++ n) = some (.reg32 (.xar n)) ∧
    resolve p m .w32 0xA9#8 = some (.reg32 .acc) ∧ resolve p m .w32 0xAB#8 = some (.reg32 .p) ∧
    resolve p m .w32 0xAC#8 = some (.reg32 .xt)

/-- 41_addressing.md R147: exactly these bytes fail, under every value of the two parameters. -/
def Obligations.ResolverFailsOnExactlyTheseBytes : Prop :=
  ∀ (p : Params) (m : Bool) (w : LocWidth) (b : Byte),
    resolve p m w b = none ↔
      (w = .w32 ∧ (b = 0xA8 ∨ b = 0xAA ∨ b = 0xAD)) ∨
      (m = true ∧ (0xC0 ≤ b ∧ b ≤ 0xC7 ∨ 0xF8 ≤ b)) ∨
      (m = false ∧ p.arpDecorPriority = .beforeCat5 ∧ 0xC8 ≤ b ∧ b ≤ 0xF7) ∨
      (m = true ∧ p.directMode1Bits = .six ∧ 0x40 ≤ b ∧ b ≤ 0x7F)

/-- 41_addressing.md R148 under the default parameters: the bytes whose two resolutions are different forms, and the
bytes that resolve in mode 0 alone. -/
def Obligations.ResolverModeDependence : Prop :=
  ∀ (p : Params) (w : LocWidth) (b : Byte), p.arpDecorPriority = .afterCat5 → p.directMode1Bits = .seven →
    ((∃ l l', resolve p false w b = some l ∧ resolve p true w b = some l' ∧ l ≠ l') ↔
      b ≤ 0x7F ∨ b = 0xBF ∨ (0xC8 ≤ b ∧ b ≤ 0xF7)) ∧
    ((∃ l, resolve p false w b = some l) ∧ resolve p true w b = none ↔ 0xC0 ≤ b ∧ b ≤ 0xC7 ∨ 0xF8 ≤ b) ∧
    (resolve p false w b = none → resolve p true w b = none)

/-- 10_state.md R34: the addressing descriptor record tells every form apart, and its decoration flags are those of the
form: `indirect` is off for the direct and register forms alone, and no form pre-increments. -/
def Obligations.AddressingDescriptorIdentifiesForm : Prop :=
  (∀ l l' : Loc, l.descriptor = l'.descriptor → l = l') ∧
  ∀ l : Loc, l.descriptor.preInc = false ∧
    (l.descriptor.indirect = false ↔
      l.descriptor.form = .directDp6 ∨ l.descriptor.form = .directDp7 ∨
      l.descriptor.form = .reg16 ∨ l.descriptor.form = .reg32) ∧
    (l.descriptor.circular = true ↔ l.descriptor.form = .circAr6 ∨ l.descriptor.form = .circXar6Ar1)

/-- 41_addressing.md R115: a resolve call returns the descriptor record and the tokens of the byte under the instance's
`AMODE`, or None, and changes nothing else. -/
def Obligations.ResolveCallAnswers : Prop :=
  ∀ (s : State) (b : Byte) (w : LocWidth) (rest : List Call), s.calls = .resolve b w :: rest →
    (∀ l, resolve s.params s.cfg.amode w b = some l →
      step s = .next (returned s rest (.resolved b w (some (l.descriptor, l.tokens))))) ∧
    (resolve s.params s.cfg.amode w b = none → step s = .next (returned s rest (.resolved b w none)))

/-! ### The instructions -/

/-- 44_catalog.md R195 to R198, R200 to R202, R205, R207: the rows without a field complete. -/
def Obligations.RowsWithoutFieldsComplete : Prop :=
  ∀ (s : State) (a k : Nat) (i : Instr) (row : Descriptor) (op : Op32) (m : String) (es : List Edge),
    (i, row, op, m, es) ∈
      [ (Instr.itrap0, rowItrap0, 0x0000#32, "ITRAP0", []), (.itrap1, rowItrap1, 0xFFFF#32, "ITRAP1", []),
        (.aborti, rowAborti, 0x0001#32, "ABORTI", []), (.lretr, rowLretr, 0x0006#32, "LRETR", [.ret]),
        (.iret, rowIret, 0x7602#32, "IRET", [.ret]), (.lrete, rowLrete, 0x7610#32, "LRETE", [.ret]),
        (.lret, rowLret, 0x7614#32, "LRET", [.ret]), (.eint, rowEint, 0x2910#32, "EINT", []),
        (.dint, rowDint, 0x3B10#32, "DINT", []) ] →
    RowAt s.catalog row k →
    Completes i s a ⟨k, .two, op, [], []⟩ es s.rar (bareTokens s m)

/-- 44_catalog.md R204: NOP completes; it is repeatable, so its stream begins with the marker at a registered
address. -/
def Obligations.NopCompletes : Prop :=
  ∀ (s : State) (a k : Nat), RowAt s.catalog rowNop k →
    Completes .nop s a ⟨k, .two, 0x7700, [], []⟩ [] s.rar (markerAt s a ++ bareTokens s "NOP")

/-- 44_catalog.md R199, R203, R206, R208, R217, R224: TRAP, LB *XAR7, CLRC, SETC, ADDB and MOV ACC,#16bit complete. -/
def Obligations.ImmediateAndFlagRowsComplete : Prop :=
  ∀ (s : State) (a k : Nat),
    (∀ n : BitVec 5, RowAt s.catalog rowTrap k →
      Completes (.trap n) s a ⟨k, .two, 0x0020#32 ||| n.setWidth 32, [("n", n.toNat)], []⟩ [.trap] s.rar
        (mnemonicTokens "TRAP" ++ [⟨.intU, "#" ++ hex n.toNat⟩])) ∧
    (RowAt s.catalog rowLbXar7 k →
      Completes .lbXar7 s a ⟨k, .two, 0x7620, [], []⟩ [.indirectBranch] s.rar
        (mnemonicTokens "LB" ++ [⟨.text, "*"⟩, ⟨.reg, "XAR7"⟩])) ∧
    (∀ m : BitVec 8, RowAt s.catalog rowClrc k →
      Completes (.clrc m) s a ⟨k, .two, 0x2900#32 ||| m.setWidth 32, [("mode", m.toNat)], []⟩ [] s.rar
        (mnemonicTokens "CLRC" ++ modeTokens m.toNat)) ∧
    (∀ m : BitVec 8, RowAt s.catalog rowSetc k →
      Completes (.setc m) s a ⟨k, .two, 0x3B00#32 ||| m.setWidth 32, [("mode", m.toNat)], []⟩ [] s.rar
        (mnemonicTokens "SETC" ++ modeTokens m.toNat)) ∧
    (∀ v : BitVec 8, RowAt s.catalog rowAddb k →
      Completes (.addb v) s a ⟨k, .two, 0x0900#32 ||| v.setWidth 32, [("imm8", v.toNat)], []⟩ [] s.rar
        (mnemonicTokens "ADDB" ++ [⟨.reg, "ACC"⟩, ⟨.sep, ", "⟩, ⟨.intU, "#" ++ hex v.toNat⟩])) ∧
    (∀ (sh : BitVec 4) (v : BitVec 16), RowAt s.catalog rowMovAccImm k →
      Completes (.movAccImm sh v) s a
        ⟨k, .four, 0xFF200000#32 ||| sh.setWidth 32 <<< 16 ||| v.setWidth 32,
          [("shift", sh.toNat), ("imm16", v.toNat)], []⟩ [] s.rar
        (mnemonicTokens "MOV" ++ [⟨.reg, "ACC"⟩, ⟨.sep, ", "⟩, ⟨.intU, "#" ++ hex v.toNat⟩, ⟨.text, " << "⟩,
          ⟨.intU, "#" ++ dec sh.toNat⟩]))

/-- 44_catalog.md R209, R222, R223: SB, BANZ and B complete.  SB is relative to its own address, BANZ and B to the next;
condition 15 under `UNC_AS_UNCONDITIONAL` gives one unconditional edge. -/
def Obligations.PcRelativeRowsComplete : Prop :=
  ∀ (s : State) (a k : Nat),
    (∀ (cond : BitVec 4) (off : BitVec 8), RowAt s.catalog rowSb k →
      let t := s.params.addrAdd (lines s a) off.toInt
      Completes (.sb cond off) s a
        ⟨k, .two, 0x6000#32 ||| cond.setWidth 32 <<< 8 ||| off.setWidth 32,
          [("cond", cond.toNat), ("off8", off.toInt)], []⟩
        (conditionalEdges s (cond = 15) t (s.params.addrAdd (lines s a) 2)) s.rar
        (mnemonicTokens "SB" ++ [⟨.addr, hex t⟩, ⟨.sep, ", "⟩, ⟨.cond, condName cond.toNat⟩])) ∧
    (∀ (n : BitVec 3) (off : BitVec 16), RowAt s.catalog rowBanz k →
      let nx := s.params.addrAdd (lines s a) 4
      let t := s.params.addrAdd nx off.toInt
      Completes (.banz n off) s a
        ⟨k, .four, 0x00080000#32 ||| n.setWidth 32 <<< 16 ||| off.setWidth 32,
          [("n", n.toNat), ("off16", off.toInt)], []⟩
        [.taken t, .notTaken nx] s.rar
        (mnemonicTokens "BANZ" ++ [⟨.addr, hex t⟩, ⟨.sep, ", "⟩, ⟨.reg, "AR" ++ dec n.toNat⟩, ⟨.text, "--"⟩])) ∧
    (∀ (cond : BitVec 4) (off : BitVec 16), RowAt s.catalog rowB k →
      let nx := s.params.addrAdd (lines s a) 4
      let t := s.params.addrAdd nx off.toInt
      Completes (.b cond off) s a
        ⟨k, .four, 0xFFE00000#32 ||| cond.setWidth 32 <<< 16 ||| off.setWidth 32,
          [("cond", cond.toNat), ("off16", off.toInt)], []⟩
        (conditionalEdges s (cond = 15) t nx) s.rar
        (mnemonicTokens "B" ++ [⟨.addr, hex t⟩, ⟨.sep, ", "⟩, ⟨.cond, condName cond.toNat⟩]))

/-- 44_catalog.md R218 to R221: LB, LC, FFC and LCR complete; the target is the literal immediate, whatever the
address, taken modulo `2^ADDR_WIDTH` (00_scope.md R14, R16; notes/assumptions/7.md); a call has no fall-through edge. -/
def Obligations.AbsoluteRowsComplete : Prop :=
  ∀ (s : State) (a k : Nat) (v : BitVec 22),
    (RowAt s.catalog rowLb k →
      Completes (.lb v) s a ⟨k, .four, 0x00400000#32 ||| v.setWidth 32, [("imm22", v.toNat)], []⟩
        [.unconditional (lines s v.toNat)] s.rar (mnemonicTokens "LB" ++ [⟨.addr, hex (lines s v.toNat)⟩])) ∧
    (RowAt s.catalog rowLc k →
      Completes (.lc v) s a ⟨k, .four, 0x00800000#32 ||| v.setWidth 32, [("imm22", v.toNat)], []⟩
        [.call (lines s v.toNat)] s.rar (mnemonicTokens "LC" ++ [⟨.addr, hex (lines s v.toNat)⟩])) ∧
    (RowAt s.catalog rowFfc k →
      Completes (.ffc v) s a ⟨k, .four, 0x00C00000#32 ||| v.setWidth 32, [("imm22", v.toNat)], []⟩
        [.call (lines s v.toNat)] s.rar
        (mnemonicTokens "FFC" ++ [⟨.reg, "XAR7"⟩, ⟨.sep, ", "⟩, ⟨.addr, hex (lines s v.toNat)⟩])) ∧
    (RowAt s.catalog rowLcr k →
      Completes (.lcr v) s a ⟨k, .four, 0x76400000#32 ||| v.setWidth 32, [("imm22", v.toNat)], []⟩
        [.call (lines s v.toNat)] s.rar
        (mnemonicTokens "LCR" ++ [⟨.text, "#"⟩, ⟨.addr, hex (lines s v.toNat)⟩]))

/-- 44_catalog.md R210, R211: RPT completes; its edge set is empty and its classification inserts exactly the address
after it (42_control_flow.md R164). -/
def Obligations.RepeatRowsComplete : Prop :=
  ∀ (s : State) (a k : Nat),
    (∀ v : BitVec 8, RowAt s.catalog rowRptImm k →
      Completes (.rptImm v) s a ⟨k, .two, 0xF600#32 ||| v.setWidth 32, [("imm8", v.toNat)], []⟩ []
        (rarInsert (s.params.addrAdd (lines s a) 2) s.rar)
        (mnemonicTokens "RPT" ++ [⟨.intU, "#" ++ hex v.toNat⟩])) ∧
    (∀ (b : Byte) (l : Loc), RowAt s.catalog rowRptLoc k → resolve s.params s.cfg.amode .w16 b = some l →
      Completes (.rptLoc b) s a ⟨k, .two, 0xF700#32 ||| b.setWidth 32, [("loc", b.toNat)], [("loc", l)]⟩ []
        (rarInsert (s.params.addrAdd (lines s a) 2) s.rar) (mnemonicTokens "RPT" ++ l.tokens))

/-- 44_catalog.md R212 to R216, R225: MOVL, the four MOV forms and IN complete for every location byte that resolves
at the row's width; the two storing MOV forms are repeatable. -/
def Obligations.LocationRowsComplete : Prop :=
  ∀ (s : State) (a k : Nat) (b : Byte) (l : Loc),
    (RowAt s.catalog rowMovlAccLoc k → resolve s.params s.cfg.amode .w32 b = some l →
      Completes (.movlAccLoc b) s a ⟨k, .two, 0x0600#32 ||| b.setWidth 32, [("loc", b.toNat)], [("loc", l)]⟩ [] s.rar
        (mnemonicTokens "MOVL" ++ [⟨.reg, "ACC"⟩, ⟨.sep, ", "⟩] ++ l.tokens)) ∧
    (RowAt s.catalog rowMovAlLoc k → resolve s.params s.cfg.amode .w16 b = some l →
      Completes (.movAlLoc b) s a ⟨k, .two, 0x9200#32 ||| b.setWidth 32, [("loc", b.toNat)], [("loc", l)]⟩ [] s.rar
        (mnemonicTokens "MOV" ++ [⟨.reg, "AL"⟩, ⟨.sep, ", "⟩] ++ l.tokens)) ∧
    (RowAt s.catalog rowMovAhLoc k → resolve s.params s.cfg.amode .w16 b = some l →
      Completes (.movAhLoc b) s a ⟨k, .two, 0x9300#32 ||| b.setWidth 32, [("loc", b.toNat)], [("loc", l)]⟩ [] s.rar
        (mnemonicTokens "MOV" ++ [⟨.reg, "AH"⟩, ⟨.sep, ", "⟩] ++ l.tokens)) ∧
    (RowAt s.catalog rowMovLocAl k → resolve s.params s.cfg.amode .w16 b = some l →
      Completes (.movLocAl b) s a ⟨k, .two, 0x9600#32 ||| b.setWidth 32, [("loc", b.toNat)], [("loc", l)]⟩ [] s.rar
        (markerAt s a ++ mnemonicTokens "MOV" ++ l.tokens ++ [⟨.sep, ", "⟩, ⟨.reg, "AL"⟩])) ∧
    (RowAt s.catalog rowMovLocAh k → resolve s.params s.cfg.amode .w16 b = some l →
      Completes (.movLocAh b) s a ⟨k, .two, 0x9700#32 ||| b.setWidth 32, [("loc", b.toNat)], [("loc", l)]⟩ [] s.rar
        (markerAt s a ++ mnemonicTokens "MOV" ++ l.tokens ++ [⟨.sep, ", "⟩, ⟨.reg, "AH"⟩])) ∧
    (∀ pa : BitVec 16, RowAt s.catalog rowInLoc k → resolve s.params s.cfg.amode .w16 b = some l →
      Completes (.inLoc b pa) s a
        ⟨k, .four, 0xB4000000#32 ||| b.setWidth 32 <<< 16 ||| pa.setWidth 32,
          [("loc", b.toNat), ("pa", pa.toNat)], [("loc", l)]⟩ [] s.rar
        (mnemonicTokens "IN" ++ l.tokens ++ [⟨.sep, ", "⟩, ⟨.mmio, "*(" ++ hex pa.toNat ++ ")"⟩]))

/-- 60_exceptions.md R253, 40_dispatch.md R109: where the location byte does not resolve, the decode call of a location
row returns `F_ADDR_RESOLVE` with the raw opcode, the field, the byte, the mode and the width, and nothing else
changes; the registry too is unchanged (42_control_flow.md R165). -/
def Obligations.UnresolvedLocationFailsDecode : Prop :=
  ∀ (s : State) (a k : Nat) (b : Byte) (w : Window) (n : Nat) (rest : List Call) (i : Instr) (row : Descriptor)
    (raw : Op32) (width : LocWidth) (pa : BitVec 16),
    (i, row, raw, width) ∈
      [ (Instr.rptLoc b, rowRptLoc, 0xF700#32 ||| b.setWidth 32, LocWidth.w16),
        (.movlAccLoc b, rowMovlAccLoc, 0x0600#32 ||| b.setWidth 32, .w32),
        (.movAlLoc b, rowMovAlLoc, 0x9200#32 ||| b.setWidth 32, .w16),
        (.movAhLoc b, rowMovAhLoc, 0x9300#32 ||| b.setWidth 32, .w16),
        (.movLocAl b, rowMovLocAl, 0x9600#32 ||| b.setWidth 32, .w16),
        (.movLocAh b, rowMovLocAh, 0x9700#32 ||| b.setWidth 32, .w16),
        (.inLoc b pa, rowInLoc, 0xB4000000#32 ||| b.setWidth 32 <<< 16 ||| pa.setWidth 32, .w16) ] →
    RowAt s.catalog row k → resolve s.params s.cfg.amode width b = none →
    (s.calls = .decode w n a :: rest ∨ s.calls = .analyse w n a :: rest) →
    exec i s = .next (returned s rest (.failed (lines s a) (.addrResolve raw "loc" b s.cfg.amode width)))

/-- 44_catalog.md R226, R227: LOOPZ and LOOPNZ complete in a catalog that holds their row: TRUE to the next instruction
and FALSE to itself (42_control_flow.md R163). -/
def Obligations.LoopWaitRowsComplete : Prop :=
  ∀ (s : State) (a k : Nat) (d : Descriptor) (b : Byte) (v : BitVec 16) (l : Loc) (i : Instr) (m : String),
    (i, m) ∈ [(Instr.loopz b v, "LOOPZ"), (.loopnz b v, "LOOPNZ")] →
    LoopAt s.catalog m k d → d.wf = true → d.objSensitive = false → d.repeatable = false →
    resolve s.params s.cfg.amode .w16 b = some l →
    Completes i s a
      ⟨k, .four, d.opcode ||| b.setWidth 32 <<< 16 ||| v.setWidth 32,
        [("loc", b.toNat), ("imm16", v.toNat)], [("loc", l)]⟩
      [.taken (s.params.addrAdd (lines s a) 4), .notTaken (lines s a)] s.rar
      (mnemonicTokens m ++ l.tokens ++ [⟨.sep, ", "⟩, ⟨.intU, "#" ++ hex v.toNat⟩])

/-- 44_catalog.md R228, R232 to R234, R238: RPTB, XRETC, LC *XAR7, LCR *XARn and INTR complete in a catalog that holds
their row, with the edges of their class; RPTB inserts the address after it (42_control_flow.md R164). -/
def Obligations.OpenRowsWithoutTargetComplete : Prop :=
  ∀ (s : State) (a k : Nat) (d : Descriptor) (raw : Op32) (r : Decoded) (i : Instr) (m : String) (cls : CfClass)
    (es : List Edge),
    (i, m, cls, es) ∈
      [ (Instr.rptb raw, "RPTB", CfClass.repeated, []), (.xretc raw, "XRETC", .ret, [.ret]),
        (.lcXar7 raw, "LC", .indCall, [.indirectCall]), (.lcrXar raw, "LCR", .indCall, [.indirectCall]),
        (.intr raw, "INTR", .trap, [.trap]) ] →
    NamedAt s.catalog m cls k d → d.operandsOk = true → finish s.params s.cfg k d raw = .ok r →
    ∃ ts, renderTokens s.params d r (lines s a) (rarContains s.rar (lines s a)) = some ts ∧
      Completes i s a r es
        (if cls = .repeated then rarInsert (s.params.addrAdd (lines s a) d.length.bytes) s.rar else s.rar) ts

/-- 44_catalog.md R229 to R231: the extended-bank rows complete in a catalog that holds them: the target is
`XBANK + pma16` (42_control_flow.md R169), taken modulo `2^ADDR_WIDTH` (00_scope.md R14, R16; notes/assumptions/7.md). -/
def Obligations.ExtendedBankRowsComplete : Prop :=
  ∀ (s : State) (a k : Nat) (d : Descriptor) (raw : Op32) (r : Decoded) (v : Int),
    d.operandsOk = true → finish s.params s.cfg k d raw = .ok r → valueOfKind d r.values .pma16 = some v →
    let t := s.params.addrAdd s.params.xbank.toNat v
    let nx := s.params.addrAdd (lines s a) d.length.bytes
    (NamedAt s.catalog "XB" .jumpXbank k d →
      ∃ ts, renderTokens s.params d r (lines s a) (rarContains s.rar (lines s a)) = some ts ∧
        Completes (.xbArp raw) s a r [.unconditional t] s.rar ts) ∧
    (NamedAt s.catalog "XB" .condXbank k d →
      ∃ ts, renderTokens s.params d r (lines s a) (rarContains s.rar (lines s a)) = some ts ∧
        Completes (.xbCond raw) s a r (conditionalEdges s (valueOfKind d r.values .cond = some 15) t nx) s.rar ts) ∧
    (NamedAt s.catalog "XCALL" .callXbank k d →
      ∃ ts, renderTokens s.params d r (lines s a) (rarContains s.rar (lines s a)) = some ts ∧
        Completes (.xcallArp raw) s a r [.call t] s.rar ts)

/-- 44_catalog.md R235 to R237: SBF, BAR and BF complete in a catalog that holds them: SBF relative to its own address,
BAR and BF to the next. -/
def Obligations.OpenRelativeRowsComplete : Prop :=
  ∀ (s : State) (a k : Nat) (d : Descriptor) (raw : Op32) (r : Decoded) (v : Int),
    d.operandsOk = true → finish s.params s.cfg k d raw = .ok r → valueOfKind d r.values .rel = some v →
    let nx := s.params.addrAdd (lines s a) d.length.bytes
    let unc := valueOfKind d r.values .cond = some 15
    (NamedRelAt s.catalog "SBF" .current k d →
      ∃ ts, renderTokens s.params d r (lines s a) (rarContains s.rar (lines s a)) = some ts ∧
        Completes (.sbf raw) s a r (conditionalEdges s unc (s.params.addrAdd (lines s a) v) nx) s.rar ts) ∧
    (NamedRelAt s.catalog "BAR" .next k d →
      ∃ ts, renderTokens s.params d r (lines s a) (rarContains s.rar (lines s a)) = some ts ∧
        Completes (.bar raw) s a r (conditionalEdges s unc (s.params.addrAdd nx v) nx) s.rar ts) ∧
    (NamedRelAt s.catalog "BF" .next k d →
      ∃ ts, renderTokens s.params d r (lines s a) (rarContains s.rar (lines s a)) = some ts ∧
        Completes (.bf raw) s a r (conditionalEdges s unc (s.params.addrAdd nx v) nx) s.rar ts)

/-- 44_catalog.md section 3: an instruction for which the instance's catalog holds no row is refused by name; the rows
with open encodings are so refused over the default catalog, and no window decodes to one of them there.  The refusal is
the model's (notes/assumptions/11.md). -/
def Obligations.InstructionWithoutRowIsRefused : Prop :=
  (∀ (i : Instr) (s : State), (∀ d ∈ s.catalog, i.selects d = false) → exec i s = .refused .noSuchRow) ∧
  (∀ (s : State) (b : Byte) (v : BitVec 16) (raw : Op32) (i : Instr), s.catalog = catalogGK →
    i ∈ [ Instr.loopz b v, .loopnz b v, .rptb raw, .xbArp raw, .xbCond raw, .xcallArp raw, .xretc raw, .lcXar7 raw,
          .lcrXar raw, .sbf raw, .bar raw, .bf raw, .intr raw ] →
    exec i s = .refused .noSuchRow ∧
    ∀ (w : Window) (n : Nat), decodeInstr s.params s.cfg catalogGK w n ≠ .ok (some i))

/-! ### The step -/

/-- A step runs the decoded instruction, with nothing around it: the window at the head decodes to it, or the record
handed in is its record. -/
def Obligations.StepRunsTheDecodedInstruction : Prop :=
  ∀ (s : State) (w : Window) (n a : Nat) (r : Decoded) (rest : List Call) (i : Instr),
    ((s.calls = .decode w n a :: rest ∨ s.calls = .analyse w n a :: rest) →
      decodeInstr s.params s.cfg s.catalog w n = .ok (some i) → step s = exec i s) ∧
    ((s.calls = .classify r a :: rest ∨ s.calls = .render r a :: rest) →
      identify s.params s.cfg s.catalog r = some i → step s = exec i s)

/-- The meanings of the opcode table are the engine's own operations: whatever row a call is about, in the table or not,
the step serves its record by the shared operations (10_state.md R26). -/
def Obligations.MeaningsRefineTheGenericEngine : Prop :=
  ∀ (s : State) (r : Except Failure Decoded), headRecord s = some r → step s = serve r s

/-- 60_exceptions.md R262, 20_memory.md R52: with no call the engine does nothing. -/
def Obligations.EngineIdlesWithoutCall : Prop :=
  ∀ s : State, s.calls = [] → step s = .next s

/-- From a good state the engine never stops, and the next state is good: every call of such a host is answered
(42_control_flow.md R166, 70_reset_and_hazards.md R278).  Good states are those of Sys2Proof/Safety.lean; the catalog need not be
one the validator accepts. -/
def Obligations.GoodStatesNeverStop : Prop :=
  ∀ s : State, s.Good → ∃ t, step s = .next t ∧ t.Good

/-- The reset state is good. -/
def Obligations.ResetStateIsGood : Prop := State.reset.Good

/-- The registry keeps its canonical form at every step, from every state (10_state.md R27). -/
def Obligations.StepKeepsRegistryForm : Prop :=
  ∀ s t : State, RarWf s.params s.rar → step s = .next t → RarWf t.params t.rar

/-- 10_state.md R23, R25: along any run the flags, the catalog and the parameters stay as they are. -/
def Obligations.ConfigurationIsNeverWritten : Prop :=
  ∀ (k : Nat) (s t : State), core.run k s = .next t → t.cfg = s.cfg ∧ t.catalog = s.catalog ∧ t.params = s.params

/-- 10_state.md R28: the registry is append-only along any run. -/
def Obligations.RegistryIsAppendOnly : Prop :=
  ∀ (k : Nat) (s t : State), core.run k s = .next t → ∀ x ∈ s.rar, x ∈ t.rar

/-- 42_control_flow.md R164, R168, 43_render.md R190: the registry gains an address at a step exactly when the step
classifies a row of class CF_REPEAT, and that address is `addr_add(A, L)`. -/
def Obligations.OnlyRepeatClassificationInserts : Prop :=
  ∀ s t : State, step s = .next t → ∀ x : Nat,
    x ∈ t.rar ↔ x ∈ s.rar ∨
      ∃ r a rest d, s.calls = .classify r a :: rest ∧ s.catalog[r.desc]? = some d ∧ d.cfClass = .repeated ∧
        x = s.params.addrAdd (lines s a) d.length.bytes

/-- 20_memory.md R58, 70_reset_and_hazards.md R278: a step that takes a call returns one value to it.  The pending calls
and their order are the model's (notes/assumptions/1.md): the others stay pending in order, and a successful analyse puts
the host's two calls on its record before them (notes/assumptions/6.md), and no other call puts any. -/
def Obligations.EachCallReturnsOneValue : Prop :=
  ∀ (s t : State) (c : Call) (rest : List Call), s.calls = c :: rest → step s = .next t →
    ∃ v, t.returns = s.returns ++ [v] ∧
      t.calls = (match c, v with
        | .analyse _ _ a, .decoded _ r => .classify r a :: .render r a :: rest
        | _, _ => rest)

/-- 42_control_flow.md R165, 60_exceptions.md R259: a failed decode changes no state: the call returns the failure, and
neither classify nor an insert follows. -/
def Obligations.FailedDecodeChangesNothing : Prop :=
  ∀ (s : State) (w : Window) (n a : Nat) (rest : List Call) (f : Failure),
    (s.calls = .decode w n a :: rest ∨ s.calls = .analyse w n a :: rest) →
    decodeWindow s.params s.cfg s.catalog w n = .error f →
    step s = .next (returned s rest (.failed (lines s a) f))

/-- 42_control_flow.md R150 to R164, R169: what a classify call returns for each class, for any row of any catalog.  Targets
are taken modulo `2^ADDR_WIDTH` (00_scope.md R14, R16; notes/assumptions/7.md), and of two fields of the kind its class reads the
first counts (notes/assumptions/25.md). -/
def Obligations.ClassifyReturnsTheClassEdges : Prop :=
  ∀ (s : State) (r : Decoded) (a : Nat) (rest : List Call) (d : Descriptor),
    s.calls = .classify r a :: rest → s.catalog[r.desc]? = some d →
    let A := lines s a
    let nx := s.params.addrAdd A d.length.bytes
    let unc := valueOfKind d r.values .cond = some 15
    let ret := fun es => Host.Outcome.next (returned s rest (.classified A d.length es))
    match d.cfClass with
    | .none => step s = ret []
    | .jumpAbs => ∀ v : Int, valueOfKind d r.values .abs22 = some v →
        step s = ret [.unconditional (s.params.addrAdd 0 v)]
    | .jumpXbank => ∀ v : Int, valueOfKind d r.values .pma16 = some v →
        step s = ret [.unconditional (s.params.addrAdd s.params.xbank.toNat v)]
    | .condRel => ∀ v : Int, valueOfKind d r.values .rel = some v →
        (d.relBase = some .current → step s = ret (conditionalEdges s unc (s.params.addrAdd A v) nx)) ∧
        (d.relBase = some .next → step s = ret (conditionalEdges s unc (s.params.addrAdd nx v) nx))
    | .condXbank => ∀ v : Int, valueOfKind d r.values .pma16 = some v →
        step s = ret (conditionalEdges s unc (s.params.addrAdd s.params.xbank.toNat v) nx)
    | .callAbs => ∀ v : Int, valueOfKind d r.values .abs22 = some v →
        step s = ret [.call (s.params.addrAdd 0 v)]
    | .callXbank => ∀ v : Int, valueOfKind d r.values .pma16 = some v →
        step s = ret [.call (s.params.addrAdd s.params.xbank.toNat v)]
    | .indBranch => step s = ret [.indirectBranch]
    | .indCall => step s = ret [.indirectCall]
    | .ret => step s = ret [.ret]
    | .trap => step s = ret [.trap]
    | .loopWait => step s = ret [.taken nx, .notTaken A]
    | .repeated =>
        step s = .next { returned s rest (.classified A d.length []) with rar := rarInsert nx s.rar }

/-- 42_control_flow.md R158: for the three call classes the returned set holds exactly one record, and it is a call. -/
def Obligations.CallClassesReturnOneCallEdge : Prop :=
  ∀ (s t : State) (r : Decoded) (a : Nat) (rest : List Call) (d : Descriptor) (len : Len) (es : List Edge),
    s.calls = .classify r a :: rest → s.catalog[r.desc]? = some d →
    (d.cfClass = .callAbs ∨ d.cfClass = .callXbank ∨ d.cfClass = .indCall) →
    step s = .next t → t.returns = s.returns ++ [.classified (lines s a) len es] →
    ∃ e, es = [e] ∧ (e = .indirectCall ∨ ∃ x, e = .call x)

/-- 42_control_flow.md R167: every returned edge list is a set of at most two records, TRUE before FALSE. -/
def Obligations.EdgeSetsAreCanonical : Prop :=
  ∀ (s t : State) (A : Nat) (len : Len) (es : List Edge), step s = .next t →
    t.returns = s.returns ++ [.classified A len es] →
    es.Nodup ∧ es.length ≤ 2 ∧
    (es.length = 2 → ∃ x y, es = [.taken x, .notTaken y]) ∧ ∀ y, es ≠ [.notTaken y]

/-- 43_render.md R174, R175: the marker and its space come first exactly for a repeatable row at a registered address;
else the mnemonic does.  The mnemonic follows the marker. -/
def Obligations.MarkerExactlyAtRegisteredRepeatable : Prop :=
  ∀ (s t : State) (r : Decoded) (a : Nat) (rest : List Call) (d : Descriptor) (len : Len) (ts : List Token),
    s.calls = .render r a :: rest → s.catalog[r.desc]? = some d → step s = .next t →
    t.returns = s.returns ++ [.rendered (lines s a) len ts] →
    (d.repeatable = true ∧ lines s a ∈ s.rar →
      ∃ us, ts = ⟨.marker, "||"⟩ :: ⟨.text, " "⟩ :: ⟨.mnemonic, d.mnemonic⟩ :: us) ∧
    (¬ (d.repeatable = true ∧ lines s a ∈ s.rar) → ∃ us, ts = ⟨.mnemonic, d.mnemonic⟩ :: us)

/-- 43_render.md R189, 60_exceptions.md R255: render of a record that lacks the addressing descriptor of a location field
returns `F_RENDER_UNRESOLVED` and no token, and changes nothing else; no record that decode returns is one.  That the
failure names the first such field, before any operand is looked at, is an inference (notes/assumptions/16.md). -/
def Obligations.UnresolvedRecordFailsRender : Prop :=
  (∀ (s : State) (r : Decoded) (a : Nat) (rest : List Call) (d : Descriptor) (pre post : List Field) (f : Field),
    s.calls = .render r a :: rest → s.catalog[r.desc]? = some d → d.fields = pre ++ f :: post →
    (f.kind = .loc16 ∨ f.kind = .loc32) → lookupField r.addr f.name = none →
    (∀ g ∈ pre, g.kind = .loc16 ∨ g.kind = .loc32 → lookupField r.addr g.name ≠ none) →
    step s = .next (returned s rest (.failed (lines s a) (.renderUnresolved f.name)))) ∧
  ∀ (p : Params) (c : Cfg) (cat : Catalog) (w : Window) (n : Nat) (r : Decoded) (d : Descriptor) (f : Field),
    decodeWindow p c cat w n = .ok r → cat[r.desc]? = some d → f ∈ d.fields →
    (f.kind = .loc16 ∨ f.kind = .loc32) → lookupField r.addr f.name ≠ none

/-- 70_reset_and_hazards.md R270, R271: a classify of a repeat row at `A` and a render of a repeatable row at `A+L`, in the two
orders of their instants.  Classify first: the listing has the marker.  Render first at an address not registered
before: it has none; and the registry ends the same. -/
def Obligations.RepeatMarkerFollowsOrderOfCalls : Prop :=
  ∀ (s : State) (rp rn : Decoded) (a : Nat) (rest : List Call) (dp dn : Descriptor) (ts : List Token),
    s.catalog[rp.desc]? = some dp → dp.cfClass = .repeated →
    s.catalog[rn.desc]? = some dn → dn.repeatable = true → unresolvedField dn rn = none →
    let b := s.params.addrAdd (lines s a) dp.length.bytes
    renderTokens s.params dn rn b false = some ts →
    let cl := Reply.classified (lines s a) dp.length []
    let marked := Reply.rendered b dn.length (⟨.marker, "||"⟩ :: ⟨.text, " "⟩ :: ts)
    let plain := Reply.rendered b dn.length ts
    (s.calls = .classify rp a :: .render rn b :: rest →
      core.run 2 s = .next { s with rar := rarInsert b s.rar, calls := rest, returns := s.returns ++ [cl, marked] }) ∧
    (s.calls = .render rn b :: .classify rp a :: rest → b ∉ s.rar →
      core.run 2 s = .next { s with rar := rarInsert b s.rar, calls := rest, returns := s.returns ++ [plain, cl] })

/-- 20_memory.md R61: what a call returns depends on the registry only through `RAR.contains(A)` of a render. -/
def Obligations.RegistrySeenOnlyThroughRenderMarker : Prop :=
  ∀ (s t : State) (ρ : List Nat),
    (∀ r a rest, s.calls = .render r a :: rest → (lines s a ∈ ρ ↔ lines s a ∈ s.rar)) →
    step s = .next t →
    ∃ t', step { s with rar := ρ } = .next t' ∧ t'.returns = t.returns ∧ t'.calls = t.calls

/-- 10_state.md R21: over the default catalog `OBJMODE` changes no output and no state but itself. -/
def Obligations.ObjmodeInvisibleOverDefaultCatalog : Prop :=
  ∀ (s t : State) (o : Bool), s.catalog = catalogGK → step s = .next t →
    step { s with cfg := ⟨o, s.cfg.amode⟩ } = .next { t with cfg := ⟨o, s.cfg.amode⟩ }

/-! ### Texts -/

/-- 43_render.md R188: `HEX` and `DEC` write the digits with no leading zeros. -/
def Obligations.NumberTextsHaveNoLeadingZeros : Prop :=
  (∀ v : Nat, 0 < v →
    hex v = "0x" ++ String.ofList ((Nat.digits 16 v).reverse.map Nat.digitChar) ∧
    dec v = String.ofList ((Nat.digits 10 v).reverse.map Nat.digitChar)) ∧
  hex 0 = "0x0" ∧ dec 0 = "0" ∧
  (List.range 16).map Nat.digitChar =
    ['0', '1', '2', '3', '4', '5', '6', '7', '8', '9', 'a', 'b', 'c', 'd', 'e', 'f']

/-- 30_encoding.md R79, R80: the 16 condition names, and the names of a mode mask's bits in ascending order. -/
def Obligations.ConditionAndFlagNames : Prop :=
  (List.range 16).map condName =
    ["NEQ", "EQ", "GT", "GEQ", "LT", "LEQ", "HI", "HIS", "LO", "LOS", "NOV", "OV", "NTC", "TC", "NBIO", "UNC"] ∧
  modeFlags 0xFF = ["SXM", "OVM", "TC", "C", "INTM", "DBGM", "PAGE0", "VMAP"] ∧ modeTokens 0 = [] ∧
  modeTokens 0x0C = [⟨.flag, "TC"⟩, ⟨.sep, ", "⟩, ⟨.flag, "C"⟩]

/-- 43_render.md R185: a flag is listed exactly when its bit is set, in ascending bit order, with one separator between
two consecutive names. -/
def Obligations.FlagListInAscendingBitOrder : Prop :=
  ∀ m : Nat,
    (∀ k name, flagNames[k]? = some name → (name ∈ modeFlags m ↔ m.testBit k = true)) ∧
    (modeFlags m).Sublist flagNames ∧
    (modeTokens m).length = 2 * (modeFlags m).length - 1 ∧
    ∀ k, (∀ name, (modeFlags m)[k]? = some name → (modeTokens m)[2 * k]? = some ⟨.flag, name⟩) ∧
      (k + 1 < (modeFlags m).length → (modeTokens m)[2 * k + 1]? = some ⟨.sep, ", "⟩)

/-! ### Listings -/

/-- 41_addressing.md R118 to R146, 10_state.md R34: the addressing descriptor record and the display tokens of each of the
28 forms, at the bytes, mode and width of its row. -/
def Obligations.FormsHaveTheListedRecordsAndTokens : Prop :=
  ∀ (p : Params) (m : Bool) (w : LocWidth) (n k : BitVec 3) (o6 : BitVec 6) (o7 : BitVec 7),
    let tx := fun t : String => (⟨.text, t⟩ : Token)
    let rg := fun t : String => (⟨.reg, t⟩ : Token)
    let xar := rg ("XAR" ++ dec n.toNat)
    let arp := rg ("ARP" ++ dec n.toNat)
    let x := some (Reg.xar n)
    let pt := some n.toNat
    Lists p false w (0b00#2 ++ o6) { form := .directDp6, offset := some o6.toNat } [tx "@", tx (hex o6.toNat)] ∧
    (p.directMode1Bits = .seven → Lists p true w (0b0#1 ++ o7)
      { form := .directDp7, offset := some o7.toNat } [tx "@@", tx (hex o7.toNat)]) ∧
    (p.directMode1Bits = .six → Lists p true w (0b00#2 ++ o6)
      { form := .directDp7, offset := some o6.toNat } [tx "@@", tx (hex o6.toNat)]) ∧
    Lists p false w (0b01#2 ++ o6) { form := .stackNeg6, reg := some .sp, offset := some o6.toNat, indirect := true }
      [tx "*-", rg "SP", tx "[", tx (dec o6.toNat), tx "]"] ∧
    Lists p m w 0xBD#8 { form := .spPostInc, reg := some .sp, indirect := true, postInc := true }
      [tx "*", rg "SP", tx "++"] ∧
    Lists p m w 0xBE#8 { form := .spPreDec, reg := some .sp, indirect := true, preDec := true } [tx "*--", rg "SP"] ∧
    Lists p m w (0b10000#5 ++ n) { form := .xarPostInc, reg := x, indirect := true, postInc := true }
      [tx "*", xar, tx "++"] ∧
    Lists p m w (0b10001#5 ++ n) { form := .xarPreDec, reg := x, indirect := true, preDec := true } [tx "*--", xar] ∧
    Lists p m w (0b10010#5 ++ n) { form := .xarIdxAr0, reg := x, indirect := true, index := some .ar0 }
      [tx "*+", xar, tx "[", rg "AR0", tx "]"] ∧
    Lists p m w (0b10011#5 ++ n) { form := .xarIdxAr1, reg := x, indirect := true, index := some .ar1 }
      [tx "*+", xar, tx "[", rg "AR1", tx "]"] ∧
    (p.arpDecorPriority = .afterCat5 ∨ k = 0#3 ∨ k = 7#3 → Lists p false w (0b11#2 ++ k ++ n)
      { form := .xarOff3, reg := x, indirect := true, index := some .offset3, offset := some k.toNat }
      [tx "*+", xar, tx "[", tx (dec k.toNat), tx "]"]) ∧
    Lists p m w 0xB8#8 { form := .arpInd, indirect := true } [tx "*"] ∧
    Lists p m w 0xB9#8 { form := .arpPostInc, indirect := true, postInc := true } [tx "*++"] ∧
    Lists p m w 0xBA#8 { form := .arpPostDec, indirect := true, postDec := true } [tx "*--"] ∧
    Lists p m w 0xBB#8 { form := .arpPostIncAr0, indirect := true, postInc := true, index := some .ar0 } [tx "*0++"] ∧
    Lists p m w 0xBC#8 { form := .arpPostDecAr0, indirect := true, postDec := true, index := some .ar0 } [tx "*0--"] ∧
    Lists p m w 0xAE#8 { form := .arpBr0PostInc, indirect := true, postInc := true, bitRevBR0 := true }
      [tx "*", rg "BR0", tx "++"] ∧
    Lists p m w 0xAF#8 { form := .arpBr0PostDec, indirect := true, postDec := true, bitRevBR0 := true }
      [tx "*", rg "BR0", tx "--"] ∧
    Lists p m w (0b10110#5 ++ n) { form := .arpSet, ptr := pt, indirect := true } [tx "*", tx ",", arp] ∧
    Lists p true w (0b11001#5 ++ n) { form := .arpSetPostInc, ptr := pt, indirect := true, postInc := true }
      [tx "*++", tx ",", arp] ∧
    Lists p true w (0b11010#5 ++ n) { form := .arpSetPostDec, ptr := pt, indirect := true, postDec := true }
      [tx "*--", tx ",", arp] ∧
    Lists p true w (0b11011#5 ++ n)
      { form := .arpSetPostIncAr0, ptr := pt, indirect := true, postInc := true, index := some .ar0 }
      [tx "*0++", tx ",", arp] ∧
    Lists p true w (0b11100#5 ++ n)
      { form := .arpSetPostDecAr0, ptr := pt, indirect := true, postDec := true, index := some .ar0 }
      [tx "*0--", tx ",", arp] ∧
    Lists p true w (0b11101#5 ++ n)
      { form := .arpSetBr0PostInc, ptr := pt, indirect := true, postInc := true, bitRevBR0 := true }
      [tx "*", rg "BR0", tx "++", tx ",", arp] ∧
    Lists p true w (0b11110#5 ++ n)
      { form := .arpSetBr0PostDec, ptr := pt, indirect := true, postDec := true, bitRevBR0 := true }
      [tx "*", rg "BR0", tx "--", tx ",", arp] ∧
    Lists p false w 0xBF#8 { form := .circAr6, reg := some (.xar 6), indirect := true, postInc := true, circular := true }
      [tx "*", rg "AR6", tx "%++"] ∧
    Lists p true w 0xBF#8
      { form := .circXar6Ar1, reg := some (.xar 6), indirect := true, index := some .ar1, postInc := true, circular := true }
      [tx "*+", rg "XAR6", tx "[", rg "AR1", tx "%++", tx "]"] ∧
    Lists p m .w16 (0b10100#5 ++ n) { form := .reg16, reg := some (.ar n) } [tx "@", rg ("AR" ++ dec n.toNat)] ∧
    (∀ b g t, (b, g, t) ∈ [(0xA8#8, Reg.ah, "AH"), (0xA9#8, .al, "AL"), (0xAA#8, .ph, "PH"), (0xAB#8, .pl, "PL"),
        (0xAC#8, .th, "TH"), (0xAD#8, .sp, "SP")] →
      Lists p m .w16 b { form := .reg16, reg := some g } [tx "@", rg t]) ∧
    Lists p m .w32 (0b10100#5 ++ n) { form := .reg32, reg := x } [tx "@", xar] ∧
    (∀ b g t, (b, g, t) ∈ [(0xA9#8, Reg.acc, "ACC"), (0xAB#8, .p, "P"), (0xAC#8, .xt, "XT")] →
      Lists p m .w32 b { form := .reg32, reg := some g } [tx "@", rg t])

/-- 43_render.md R173 to R187, R191: what a render call returns for any row of any catalog, when each part of its operands has
a text by the rules: the marker at a registered repeatable row, the mnemonic, the space, and the operands in order with one
separator between two.  The parts of one operand follow one another; a SHIFT part with no immediate before it is
the model's choice (notes/assumptions/28.md), as are the plain AREG part (17) and targets modulo `2^ADDR_WIDTH` (7). -/
def Obligations.RenderReturnsTheStream : Prop :=
  ∀ (s : State) (r : Decoded) (a : Nat) (rest : List Call) (d : Descriptor) (oss : List (List (List Token))),
    s.calls = .render r a :: rest → s.catalog[r.desc]? = some d →
    (∀ f ∈ d.fields, ∀ w, IsLoc f w → lookupField r.addr f.name ≠ none) →
    List.Forall₂ (List.Forall₂ (PartShows s d r (lines s a))) d.operands oss →
    step s = .next (returned s rest (.rendered (lines s a) d.length
      ((if d.repeatable = true ∧ lines s a ∈ s.rar then [⟨.marker, "||"⟩, ⟨.text, " "⟩] else []) ++
        [⟨.mnemonic, d.mnemonic⟩] ++
        (if d.operands ≠ [] ∨ s.params.spaceWhenNoOperands = true then [⟨.text, " "⟩] else []) ++
        List.intercalate [⟨.sep, ", "⟩] (oss.map List.flatten))))
end

