-- ==== Sys2Proof/Laws/Classify.lean ====
section
/-! SUPPORT. Sys2Proof/Laws/Classify.lean: when a class computes a target and an edge set. -/

namespace Sys2Proof

/-- The condition test as a statement about the record (42_control_flow.md R157). -/
theorem isUnc_iff (d : Descriptor) (vals : Values) : isUnc d vals = true ↔ valueOfKind d vals .cond = some 15 := by
  unfold isUnc
  exact decide_eq_true_iff

/-- A record with a value for every field has the value of the field a kind names. -/
theorem valueOfKind_isSome (d : Descriptor) (k : FieldKind) (vals : Values)
    (h : (d.fieldOfKind? (fun k' => decide (k' = k))).isSome = true)
    (hv : ∀ f ∈ d.fields, (lookupField vals f.name).isSome = true) : (valueOfKind d vals k).isSome = true := by
  obtain ⟨f, hf⟩ := Option.isSome_iff_exists.mp h
  simp only [valueOfKind, hf]
  exact hv f (List.mem_of_find?_eq_some hf)

/-- A class that computes a target computes one for every record with a value for every field. -/
theorem target_isSome (p : Params) (d : Descriptor) (vals : Values) (a : Nat) (hc : d.classOk = true)
    (hv : ∀ f ∈ d.fields, (lookupField vals f.name).isSome = true) (ht : d.cfClass.hasTarget = true) :
    (target p d vals a).isSome = true := by
  unfold Descriptor.classOk at hc
  unfold target
  cases hcl : d.cfClass <;> simp [hcl, CfClass.hasTarget] at hc ht ⊢
  · simpa [absTarget] using valueOfKind_isSome d .abs22 vals hc hv
  · simpa [xbankTarget] using valueOfKind_isSome d .pma16 vals hc hv
  · obtain ⟨v, hv'⟩ := Option.isSome_iff_exists.mp (valueOfKind_isSome d .rel vals hc.1 hv)
    obtain ⟨b, hb⟩ := Option.isSome_iff_exists.mp hc.2
    simp [relTarget, hv', hb]
  · simpa [xbankTarget] using valueOfKind_isSome d .pma16 vals hc hv
  · simpa [absTarget] using valueOfKind_isSome d .abs22 vals hc hv
  · simpa [xbankTarget] using valueOfKind_isSome d .pma16 vals hc hv

/-- Classify answers every such record (42_control_flow.md R166). -/
theorem edges_isSome (p : Params) (d : Descriptor) (vals : Values) (a : Nat) (hc : d.classOk = true)
    (hv : ∀ f ∈ d.fields, (lookupField vals f.name).isSome = true) : (edges p d vals a).isSome = true := by
  have h := target_isSome p d vals a hc hv
  unfold edges
  cases hcl : d.cfClass <;> simp [hcl, CfClass.hasTarget] at h ⊢ <;> exact h

end Sys2Proof
end

