-- ==== Sys2Proof/Laws/Codec.lean ====
section
/-! SUPPORT. Sys2Proof/Laws/Codec.lean: what the byte layout and the setter do. -/

namespace Sys2Proof

/-- The window of the bytes of a 4-byte opcode composes to it (20_memory.md R48). -/
theorem opcode32_bytesOf (op : Op32) : (Window.ofBytes (bytesOf op .four)).opcode32 = op := by
  apply BitVec.eq_of_getLsbD_eq
  intro i hi
  simp only [Window.ofBytes, bytesOf, Window.opcode32, List.getD_cons_zero, List.getD_cons_succ,
    BitVec.getLsbD_append, BitVec.getLsbD_extractLsb']
  have : i < 8 ∨ (8 ≤ i ∧ i < 16) ∨ (16 ≤ i ∧ i < 24) ∨ (24 ≤ i ∧ i < 32) := by omega
  rcases this with h | ⟨h1, h2⟩ | ⟨h1, h2⟩ | ⟨h1, h2⟩
  · simp [h]
  · simp [show ¬ i < 8 by omega, show i - 8 < 8 by omega, show 8 + (i - 8) = i by omega]
  · simp [show ¬ i < 8 by omega, show ¬ i - 8 < 8 by omega, show i - 8 - 8 < 8 by omega,
      show 16 + (i - 8 - 8) = i by omega]
  · simp [show ¬ i < 8 by omega, show ¬ i - 8 < 8 by omega, show ¬ i - 8 - 8 < 8 by omega,
      show i - 8 - 8 - 8 < 8 by omega, show 24 + (i - 8 - 8 - 8) = i by omega]

/-- The window of the bytes of a 2-byte opcode composes to its low half (20_memory.md R47). -/
theorem opcode16_bytesOf (op : Op32) : (Window.ofBytes (bytesOf op .two)).opcode16 = op.setWidth 16 := by
  apply BitVec.eq_of_getLsbD_eq
  intro i hi
  simp only [Window.ofBytes, bytesOf, Window.opcode16, List.getD_cons_zero, List.getD_cons_succ,
    BitVec.getLsbD_append, BitVec.getLsbD_extractLsb', BitVec.getLsbD_setWidth]
  by_cases h : i < 8
  · simp [h, hi]
  · simp [h, hi, show i - 8 < 8 by omega, show 8 + (i - 8) = i by omega]

/-- The first word of a 4-byte opcode is its high half (20_memory.md R49). -/
theorem opcode16_eq_high (w : Window) : w.opcode16 = w.opcode32.extractLsb' 16 16 := by
  apply BitVec.eq_of_getLsbD_eq
  intro i hi
  simp only [Window.opcode16, Window.opcode32, BitVec.getLsbD_append, BitVec.getLsbD_extractLsb']
  by_cases h : i < 8
  · simp [h, hi, show ¬ 16 + i < 8 by omega, show ¬ 16 + i - 8 < 8 by omega, show 16 + i - 8 - 8 = i by omega]
  · simp [h, hi, show ¬ 16 + i < 8 by omega, show ¬ 16 + i - 8 < 8 by omega, show ¬ 16 + i - 8 - 8 < 8 by omega,
      show 16 + i - 8 - 8 - 8 = i - 8 by omega]

/-- A value set into a field lies in the field's bits (30_encoding.md R74). -/
theorem setBits_and_bits (f : Field) (v : Nat) :
    BitVec.ofNat 32 ((v &&& (2 ^ f.width - 1)) <<< f.lo) &&& f.bits
      = BitVec.ofNat 32 ((v &&& (2 ^ f.width - 1)) <<< f.lo) := by
  apply BitVec.eq_of_getLsbD_eq
  intro i hi
  simp only [Field.bits, BitVec.getLsbD_and, BitVec.getLsbD_ofNat, hi, decide_true, Bool.true_and,
    Nat.testBit_shiftLeft, Nat.testBit_and, Nat.testBit_two_pow_sub_one]
  by_cases h : f.lo ≤ i <;> simp [h]

/-- Setting a field outside the mask leaves the masked bits (30_encoding.md R68, R72). -/
theorem set_and_mask (f : Field) (t m : Op32) (v : Nat) (h : f.bits &&& m = 0) : f.set t v &&& m = t &&& m := by
  have hx : BitVec.ofNat 32 ((v &&& (2 ^ f.width - 1)) <<< f.lo) &&& m = 0 := by
    rw [← setBits_and_bits f v, BitVec.and_assoc, h]
    simp
  apply BitVec.eq_of_getLsbD_eq
  intro i hi
  have hi' := congrArg (fun x => BitVec.getLsbD x i) hx
  simp only [Field.set, BitVec.getLsbD_and, BitVec.getLsbD_or] at hi' ⊢
  revert hi'
  cases BitVec.getLsbD t i <;> cases BitVec.getLsbD m i <;> simp

/-- Setting the fields of a well-formed descriptor leaves its masked bits. -/
theorem foldl_set_and_mask (m : Op32) (fvs : List (Field × Nat)) (t : Op32)
    (h : ∀ fv ∈ fvs, fv.1.bits &&& m = 0) :
    fvs.foldl (fun t fv => fv.1.set t fv.2) t &&& m = t &&& m := by
  induction fvs generalizing t with
  | nil => rfl
  | cons fv rest ih =>
    rw [List.foldl_cons, ih _ (fun x hx => h x (List.mem_cons_of_mem _ hx)),
      set_and_mask _ _ _ _ (h fv List.mem_cons_self)]

/-- The field-disjointness check as a statement (30_encoding.md R68). -/
theorem fieldsDisjoint_iff (fs : List Field) :
    fieldsDisjoint fs = true ↔ fs.Pairwise (fun f g => f.lo + f.width ≤ g.lo ∨ g.lo + g.width ≤ f.lo) := by
  induction fs with
  | nil => simp [fieldsDisjoint]
  | cons f rest ih => simp [fieldsDisjoint, ih, Field.disjoint]

/-- The well-formedness check of a row as a statement (30_encoding.md R66 to R68). -/
theorem wf_iff (d : Descriptor) :
    d.wf = true ↔
      d.opcode &&& ~~~ d.mask = 0 ∧
      (d.length = .two → d.mask.toNat < 2 ^ 16 ∧ d.opcode.toNat < 2 ^ 16) ∧
      (∀ f ∈ d.fields, f.bits &&& d.mask = 0 ∧ f.lo + f.width ≤ 8 * d.length.bytes) ∧
      d.fields.Pairwise (fun f g => f.lo + f.width ≤ g.lo ∨ g.lo + g.width ≤ f.lo) := by
  unfold Descriptor.wf
  simp only [Bool.and_eq_true, decide_eq_true_eq, fieldsDisjoint_iff, List.all_eq_true]
  cases d.length <;> simp [and_assoc]

/-- An assembled word of a well-formed descriptor matches it (40_dispatch.md R102). -/
theorem assemble_matches (d : Descriptor) (vals : List Nat) (h : d.wf = true) :
    d.matches (d.assemble vals) = true := by
  simp only [Descriptor.wf, Bool.and_eq_true, decide_eq_true_eq, List.all_eq_true] at h
  obtain ⟨⟨⟨ho, _⟩, hf⟩, _⟩ := h
  have hm : d.assemble vals &&& d.mask = d.opcode &&& d.mask :=
    foldl_set_and_mask d.mask _ _ (fun fv hfv => (hf fv.1 (List.of_mem_zip hfv).1).1)
  refine decide_eq_true (hm.trans ?_)
  apply BitVec.eq_of_getLsbD_eq
  intro i hi
  have := congrArg (fun x => BitVec.getLsbD x i) ho
  simp only [BitVec.getLsbD_and, BitVec.getLsbD_not, hi, decide_true, Bool.true_and] at this ⊢
  revert this
  cases d.opcode.getLsbD i <;> cases d.mask.getLsbD i <;> simp

/-! ### Field maps -/

/-- The map of some assignments holds exactly the assigned names. -/
theorem assigned_isSome {α : Type} (l : List (String × α)) (k : String) :
    (lookupField (assigned l) k).isSome = (lookupField l k).isSome := by
  induction l with
  | nil => rfl
  | cons x rest ih =>
    obtain ⟨n, v⟩ := x
    simp only [assigned, lookupField]
    by_cases h : n = k
    · subst h
      split
      · simpa
      · simp [lookupField]
    · split
      · simpa [h] using ih
      · simpa [lookupField, h] using ih

/-- A name that no assignment names has no value in the map. -/
theorem lookupField_eq_none {α : Type} (l : List (String × α)) (k : String) (h : ∀ x ∈ l, x.1 ≠ k) :
    lookupField l k = none := by
  induction l with
  | nil => rfl
  | cons x rest ih =>
    simp [lookupField, h x List.mem_cons_self, ih (fun y hy => h y (List.mem_cons_of_mem _ hy))]

/-- The last assignment of a name gives its value (40_dispatch.md R108). -/
theorem lookupField_assigned {α : Type} (pre post : List (String × α)) (k : String) (v : α)
    (h : ∀ x ∈ post, x.1 ≠ k) : lookupField (assigned (pre ++ (k, v) :: post)) k = some v := by
  induction pre with
  | nil =>
    have hn : (lookupField (assigned post) k).isSome = false := by
      rw [assigned_isSome, lookupField_eq_none post k h]; rfl
    simp [assigned, hn, lookupField]
  | cons x rest ih =>
    obtain ⟨n, u⟩ := x
    simp only [List.cons_append, assigned]
    by_cases hk : n = k
    · subst hk; simp [ih]
    · split <;> simp [lookupField, hk, ih]

/-- Assignments to distinct names are their own map. -/
theorem assigned_of_nodup {α : Type} (l : List (String × α)) (h : (l.map Prod.fst).Nodup) : assigned l = l := by
  induction l with
  | nil => rfl
  | cons x rest ih =>
    obtain ⟨n, v⟩ := x
    simp only [List.map_cons, List.nodup_cons, List.mem_map, not_exists, not_and] at h
    have hn : lookupField rest n = none := lookupField_eq_none rest n (fun y hy => h.1 y hy)
    simp [assigned, ih h.2, hn]

end Sys2Proof
end

