-- ==== Sys2Proof/Laws/Dispatch.lean ====
section
/-! SUPPORT. Sys2Proof/Laws/Dispatch.lean: what a search of the catalog, the operand extraction and the dispatcher can answer. -/

namespace Sys2Proof

/-- A search from index `n` answers the first row that satisfies the test. -/
theorem findRow_eq_some_from (sel : Descriptor → Bool) (cat : Catalog) (n k : Nat) (d : Descriptor) :
    findRow sel cat n = some (k, d) ↔
      ∃ m, k = n + m ∧ cat[m]? = some d ∧ sel d = true ∧ ∀ j < m, ∀ e, cat[j]? = some e → sel e = false := by
  induction cat generalizing n with
  | nil => simp [findRow]
  | cons x rest ih =>
    unfold findRow
    by_cases hx : sel x = true
    · rw [if_pos hx]
      constructor
      · rintro h
        obtain ⟨rfl, rfl⟩ := Prod.mk.inj (Option.some.inj h)
        exact ⟨0, rfl, rfl, hx, fun j hj => absurd hj (Nat.not_lt_zero j)⟩
      · rintro ⟨m, rfl, hm, hd, hfirst⟩
        cases m with
        | zero => simp only [List.getElem?_cons_zero, Option.some.injEq] at hm; simp [hm]
        | succ m => simp [hfirst 0 (Nat.succ_pos m) x rfl] at hx
    · rw [if_neg hx, ih]
      constructor
      · rintro ⟨m, rfl, hm, hd, hfirst⟩
        refine ⟨m + 1, by omega, by simpa using hm, hd, fun j hj e he => ?_⟩
        cases j with
        | zero =>
          simp only [List.getElem?_cons_zero, Option.some.injEq] at he
          subst he
          exact Bool.eq_false_iff.mpr hx
        | succ j => exact hfirst j (by omega) e (by simpa using he)
      · rintro ⟨m, rfl, hm, hd, hfirst⟩
        cases m with
        | zero =>
          simp only [List.getElem?_cons_zero, Option.some.injEq] at hm
          subst hm
          exact absurd hd hx
        | succ m =>
          exact ⟨m, by omega, by simpa using hm, hd, fun j hj e he => hfirst (j + 1) (by omega) e (by simpa using he)⟩

/-- The search of a catalog answers the first row that satisfies the test (40_dispatch.md R104). -/
theorem findRow_eq_some (sel : Descriptor → Bool) (cat : Catalog) (k : Nat) (d : Descriptor) :
    findRow sel cat 0 = some (k, d) ↔
      cat[k]? = some d ∧ sel d = true ∧ ∀ j < k, ∀ e, cat[j]? = some e → sel e = false := by
  simp [findRow_eq_some_from]

/-- The search of a catalog answers nothing exactly when no row satisfies the test. -/
theorem findRow_eq_none (sel : Descriptor → Bool) (cat : Catalog) (n : Nat) :
    findRow sel cat n = none ↔ ∀ d ∈ cat, sel d = false := by
  induction cat generalizing n with
  | nil => simp [findRow]
  | cons x rest ih =>
    unfold findRow
    by_cases hx : sel x = true
    · simp [hx]
    · simp [hx, ih]

/-- A record that `finish` answers holds the row's index and length, the opcode value, the extracted values and
the addressing descriptors (40_dispatch.md R108). -/
theorem finish_eq_ok (p : Params) (c : Cfg) (i : Nat) (d : Descriptor) (op : Op32) (r : Decoded) :
    finish p c i d op = .ok r ↔
      ∃ locs, extractLocs p c op d.fields = .ok locs ∧
        r = { desc := i, length := d.length, raw := op,
              values := applyObj c d (assigned (extractValues op d.fields)), addr := assigned locs } := by
  unfold finish
  split
  · rename_i e he
    simp [he]
  · rename_i locs he
    simp [he, eq_comm]

/-- A failure of `finish` is the failure of a location field (40_dispatch.md R109). -/
theorem finish_eq_error (p : Params) (c : Cfg) (i : Nat) (d : Descriptor) (op : Op32) (f : Failure) :
    finish p c i d op = .error f ↔ extractLocs p c op d.fields = .error f := by
  unfold finish
  split
  · rename_i e he
    simp [he]
  · rename_i locs he
    simp [he]

/-- A failing location extraction names the first location field of the list whose byte does not resolve
(60_exceptions.md R253, R258). -/
theorem extractLocs_eq_error (p : Params) (c : Cfg) (op : Op32) (fs : List Field) (e : Failure)
    (h : extractLocs p c op fs = .error e) :
    ∃ pre post f w, fs = pre ++ f :: post ∧ f.kind.locWidth? = some w ∧
      resolve p c.amode w (BitVec.ofNat 8 (f.get op)) = none ∧
      (∀ g ∈ pre, ∃ l, extractField p c op g = .ok l) ∧
      e = .addrResolve op f.name (BitVec.ofNat 8 (f.get op)) c.amode w := by
  induction fs with
  | nil => simp [extractLocs] at h
  | cons f rest ih =>
    unfold extractLocs at h
    split at h
    · rename_i e' he
      obtain rfl : e' = e := by simpa using h
      unfold extractField at he
      split at he
      · cases he
      · rename_i w hw
        split at he
        · cases he
        · rename_i hr
          exact ⟨[], rest, f, w, rfl, hw, hr, by simp, by simpa using he.symm⟩
    · rename_i l hl
      split at h
      · rename_i e' he
        obtain rfl : e' = e := by simpa using h
        obtain ⟨pre, post, g, w, rfl, hw, hr, hpre, heq⟩ := ih he
        exact ⟨f :: pre, post, g, w, rfl, hw, hr, by simpa [hl] using hpre, heq⟩
      · split at h <;> cases h

/-- `OBJ_EFFECT` gives values to the same names. -/
theorem applyObj_isSome (c : Cfg) (d : Descriptor) (vals : Values) (name : String) :
    (lookupField (applyObj c d vals) name).isSome = (lookupField vals name).isSome := by
  unfold applyObj
  split
  · have h : ∀ g : String × Int → Int,
        (lookupField (vals.map (fun v => (v.1, g v))) name).isSome = (lookupField vals name).isSome := by
      intro g
      induction vals with
      | nil => rfl
      | cons v rest ih =>
        simp only [List.map_cons, lookupField]
        split <;> simp_all
    exact h _
  · rfl

/-- Every field of a row has a value in the map the codec extracts. -/
theorem extractValues_isSome (op : Op32) (fs : List Field) (f : Field) (hf : f ∈ fs) :
    (lookupField (extractValues op fs) f.name).isSome = true := by
  induction fs with
  | nil => simp at hf
  | cons g rest ih =>
    simp only [extractValues, List.map_cons, lookupField]
    split
    · rfl
    · rcases List.mem_cons.mp hf with rfl | hf
      · simp_all
      · exact ih hf

/-- What `decode` can answer (40_dispatch.md R101 to R110, 60_exceptions.md R258): a short window; the finished
record or failure of the first accepted 2-byte row; without one, again a short window, or the finished record or failure
of the first accepted 4-byte row, or no match. -/
theorem decodeWindow_cases (p : Params) (c : Cfg) (cat : Catalog) (w : Window) (n : Nat) :
    (n < 2 ∧ decodeWindow p c cat w n = .error (.windowShort n none)) ∨
    (2 ≤ n ∧ ∃ i d, pass p c cat .two (w.opcode .two) = some (i, d) ∧
      decodeWindow p c cat w n = finish p c i d (w.opcode .two)) ∨
    (2 ≤ n ∧ n < 4 ∧ pass p c cat .two (w.opcode .two) = none ∧
      decodeWindow p c cat w n = .error (.windowShort n (some w.opcode16))) ∨
    (4 ≤ n ∧ pass p c cat .two (w.opcode .two) = none ∧
      ∃ i d, pass p c cat .four (w.opcode .four) = some (i, d) ∧
        decodeWindow p c cat w n = finish p c i d (w.opcode .four)) ∨
    (4 ≤ n ∧ pass p c cat .two (w.opcode .two) = none ∧ pass p c cat .four (w.opcode .four) = none ∧
      decodeWindow p c cat w n = .error (.noMatch w.opcode16 w.opcode32)) := by
  by_cases h2 : n < 2
  · exact .inl ⟨h2, by simp [decodeWindow, h2]⟩
  · cases h16 : pass p c cat .two (w.opcode .two) with
    | some id => exact .inr (.inl ⟨by omega, id.1, id.2, rfl, by simp [decodeWindow, h2, h16]⟩)
    | none =>
      by_cases h4 : n < 4
      · exact .inr (.inr (.inl ⟨by omega, h4, rfl, by simp [decodeWindow, h2, h16, h4]⟩))
      · cases h32 : pass p c cat .four (w.opcode .four) with
        | some id =>
          exact .inr (.inr (.inr (.inl ⟨by omega, rfl, id.1, id.2, rfl, by simp [decodeWindow, h2, h16, h4, h32]⟩)))
        | none => exact .inr (.inr (.inr (.inr ⟨by omega, rfl, rfl, by simp [decodeWindow, h2, h16, h4, h32]⟩)))

/-- A decoded record is the finished record of the first accepted row of its length. -/
theorem decodeWindow_eq_ok (p : Params) (c : Cfg) (cat : Catalog) (w : Window) (n : Nat) (r : Decoded)
    (h : decodeWindow p c cat w n = .ok r) :
    ∃ d, pass p c cat r.length (w.opcode r.length) = some (r.desc, d) ∧
      finish p c r.desc d (w.opcode r.length) = .ok r := by
  have key : ∀ (len : Len) (i : Nat) (d : Descriptor), pass p c cat len (w.opcode len) = some (i, d) →
      finish p c i d (w.opcode len) = .ok r →
      ∃ d, pass p c cat r.length (w.opcode r.length) = some (r.desc, d) ∧
        finish p c r.desc d (w.opcode r.length) = .ok r := by
    intro len i d hp hf
    obtain ⟨-, hsel, -⟩ := (findRow_eq_some _ _ _ _).mp hp
    simp only [Descriptor.selected, Bool.and_eq_true, decide_eq_true_eq] at hsel
    obtain ⟨locs, hl, rfl⟩ := (finish_eq_ok _ _ _ _ _ _).mp hf
    obtain ⟨⟨rfl, -⟩, -⟩ := hsel
    exact ⟨d, hp, hf⟩
  rcases decodeWindow_cases p c cat w n with ⟨-, e⟩ | ⟨-, i, d, hp, e⟩ | ⟨-, -, -, e⟩ | ⟨-, -, i, d, hp, e⟩ | ⟨-, -, -, e⟩
  · rw [e] at h; cases h
  · exact key _ i d hp (e ▸ h)
  · rw [e] at h; cases h
  · exact key _ i d hp (e ▸ h)
  · rw [e] at h; cases h

end Sys2Proof
end

