-- ==== Sys2Proof/Laws/Fields.lean ====
section
/-! SUPPORT. Sys2Proof/Laws/Fields.lean: the values of a field in an assembled word, and the word itself, for one and for two fields. -/

namespace Sys2Proof

/-- A shifted bit-vector value as the setter writes it (30_encoding.md R72). -/
theorem ofNat_shiftLeft_toNat (w lo : Nat) (v : BitVec w) :
    BitVec.ofNat 32 (v.toNat <<< lo) = v.setWidth 32 <<< lo := by
  apply BitVec.eq_of_getLsbD_eq
  intro i hi
  simp only [BitVec.getLsbD_ofNat, Nat.testBit_shiftLeft, BitVec.getLsbD_shiftLeft, BitVec.getLsbD_setWidth, hi]
  by_cases h : lo ≤ i
  · simp [h, show ¬ i < lo by omega, show i - lo < 32 by omega, BitVec.getLsbD]
  · simp [h, show i < lo by omega]

/-- The word of a row with one field. -/
theorem assemble_one (d : Descriptor) (f : Field) (v : BitVec f.width) (hd : d.fields = [f]) :
    d.assemble [v.toNat] = d.opcode ||| v.setWidth 32 <<< f.lo := by
  simp [Descriptor.assemble, hd, Field.set, Nat.and_two_pow_sub_one_eq_mod, Nat.mod_eq_of_lt v.isLt,
    ofNat_shiftLeft_toNat]

/-- The word of a row with two fields. -/
theorem assemble_two (d : Descriptor) (f g : Field) (v : BitVec f.width) (u : BitVec g.width)
    (hd : d.fields = [f, g]) :
    d.assemble [v.toNat, u.toNat] = d.opcode ||| v.setWidth 32 <<< f.lo ||| u.setWidth 32 <<< g.lo := by
  simp [Descriptor.assemble, hd, Field.set, Nat.and_two_pow_sub_one_eq_mod, Nat.mod_eq_of_lt v.isLt,
    Nat.mod_eq_of_lt u.isLt, ofNat_shiftLeft_toNat]

/-- A field that is clear in a template reads the value put into it. -/
theorem get_or_self (f : Field) (t : Op32) (v : BitVec f.width) (hf : f.lo + f.width ≤ 32) (ht : f.get t = 0) :
    f.get (t ||| v.setWidth 32 <<< f.lo) = v.toNat := by
  apply Nat.eq_of_testBit_eq
  intro i
  have hi := congrArg (fun x => x.testBit i) ht
  simp only [Field.get, Nat.testBit_and, Nat.testBit_shiftRight, Nat.testBit_two_pow_sub_one,
    Nat.zero_testBit] at hi ⊢
  change ((t ||| v.setWidth 32 <<< f.lo).getLsbD (f.lo + i) && _) = v.getLsbD i
  change (t.getLsbD (f.lo + i) && _) = _ at hi
  by_cases hw : i < f.width
  · simp [hw, show f.lo + i < 32 by omega] at hi ⊢
    simp [hi]
  · simp [hw, BitVec.getLsbD_of_ge v i (by omega)]

/-- A value put outside a field leaves it. -/
theorem get_or_other (f : Field) (t : Op32) (w lo : Nat) (v : BitVec w)
    (h : f.lo + f.width ≤ lo ∨ lo + w ≤ f.lo) : f.get (t ||| v.setWidth 32 <<< lo) = f.get t := by
  apply Nat.eq_of_testBit_eq
  intro i
  simp only [Field.get, Nat.testBit_and, Nat.testBit_shiftRight, Nat.testBit_two_pow_sub_one]
  change ((t ||| v.setWidth 32 <<< lo).getLsbD (f.lo + i) && _) = (t.getLsbD _ && _)
  by_cases hw : i < f.width
  · simp only [hw, decide_true, Bool.and_true, BitVec.getLsbD_or, BitVec.getLsbD_shiftLeft, BitVec.getLsbD_setWidth]
    rcases h with h | h
    · simp [show f.lo + i < lo by omega]
    · rw [BitVec.getLsbD_of_ge v _ (by omega)]
      simp
  · simp [hw]

/-- The signed value of a bit vector of the field's width (00_scope.md R13). -/
theorem sext_toNat (w : Nat) (v : BitVec w) (hw : 0 < w) : sext w v.toNat = v.toInt := by
  unfold sext
  rw [Nat.mod_eq_of_lt v.isLt, BitVec.toInt_eq_toNat_cond]
  obtain ⟨m, rfl⟩ : ∃ m, w = m + 1 := ⟨w - 1, by omega⟩
  have hp : (2 : Nat) ^ (m + 1) = 2 * 2 ^ m := by rw [pow_succ]; ring
  simp only [Nat.add_sub_cancel, hw, true_and]
  by_cases h : 2 ^ m ≤ v.toNat
  · rw [if_pos h, if_neg (by omega)]
    simp
  · rw [if_neg h, if_pos (by omega)]

/-- Every location field of a finished record has its addressing descriptor (40_dispatch.md R108). -/
theorem extractLocs_isSome (p : Params) (c : Cfg) (op : Op32) (fs : List Field) (ls : List (String × Loc))
    (h : extractLocs p c op fs = .ok ls) :
    ∀ f ∈ fs, f.kind.locWidth?.isSome = true → (lookupField ls f.name).isSome = true := by
  induction fs generalizing ls with
  | nil => simp
  | cons f rest ih =>
    unfold extractLocs at h
    split at h
    · cases h
    · rename_i l hl
      split at h
      · cases h
      · rename_i ls' hls
        have ih' := ih ls' hls
        unfold extractField at hl
        intro g hg hk
        split at hl
        · rename_i hw
          obtain rfl : none = l := by simpa using hl
          obtain rfl : ls' = ls := by simpa using h
          rcases List.mem_cons.mp hg with rfl | hg
          · rw [hw] at hk; cases hk
          · exact ih' g hg hk
        · split at hl
          · rename_i l0 hr
            obtain rfl : some l0 = l := by simpa using hl
            obtain rfl : (f.name, l0) :: ls' = ls := by simpa using h
            rcases List.mem_cons.mp hg with rfl | hg
            · simp [lookupField]
            · have := ih' g hg hk
              simp only [lookupField]
              split <;> simp_all
          · cases hl

/-- A finished record holds a value for every field of its row. -/
theorem finish_values_isSome (p : Params) (c : Cfg) (k : Nat) (d : Descriptor) (op : Op32) (r : Decoded)
    (h : finish p c k d op = .ok r) : ∀ f ∈ d.fields, (lookupField r.values f.name).isSome = true := by
  obtain ⟨locs, hl, rfl⟩ := (finish_eq_ok _ _ _ _ _ _).mp h
  intro f hf
  simp only [applyObj_isSome, assigned_isSome]
  exact extractValues_isSome _ _ _ hf

end Sys2Proof
end

