-- ==== Sys2Proof/Laws/State.lean ====
section
/-! SUPPORT. Sys2Proof/Laws/State.lean: one lemma per field per update of State. -/

namespace Sys2Proof.Machine

variable (s : State)

@[simp] theorem answer_cfg (r : Reply) : (s.answer r).cfg = s.cfg := rfl
@[simp] theorem answer_catalog (r : Reply) : (s.answer r).catalog = s.catalog := rfl
@[simp] theorem answer_rar (r : Reply) : (s.answer r).rar = s.rar := rfl
@[simp] theorem answer_params (r : Reply) : (s.answer r).params = s.params := rfl
@[simp] theorem answer_calls (r : Reply) : (s.answer r).calls = s.calls.tail := rfl
@[simp] theorem answer_returns (r : Reply) : (s.answer r).returns = s.returns ++ [r] := rfl

@[simp] theorem fail_cfg (a : Nat) (f : Failure) : (s.fail a f).cfg = s.cfg := rfl
@[simp] theorem fail_catalog (a : Nat) (f : Failure) : (s.fail a f).catalog = s.catalog := rfl
@[simp] theorem fail_rar (a : Nat) (f : Failure) : (s.fail a f).rar = s.rar := rfl
@[simp] theorem fail_params (a : Nat) (f : Failure) : (s.fail a f).params = s.params := rfl
@[simp] theorem fail_calls (a : Nat) (f : Failure) : (s.fail a f).calls = s.calls.tail := rfl
@[simp] theorem fail_returns (a : Nat) (f : Failure) :
    (s.fail a f).returns = s.returns ++ [.failed (s.params.addr a) f] := rfl

@[simp] theorem follow_cfg (cs : List Call) : (s.follow cs).cfg = s.cfg := rfl
@[simp] theorem follow_catalog (cs : List Call) : (s.follow cs).catalog = s.catalog := rfl
@[simp] theorem follow_rar (cs : List Call) : (s.follow cs).rar = s.rar := rfl
@[simp] theorem follow_params (cs : List Call) : (s.follow cs).params = s.params := rfl
@[simp] theorem follow_calls (cs : List Call) : (s.follow cs).calls = cs ++ s.calls := rfl
@[simp] theorem follow_returns (cs : List Call) : (s.follow cs).returns = s.returns := rfl

/-- The registry effect of classify touches the registry alone. -/
theorem noteRepeat_eq (d : Descriptor) (a : Nat) :
    s.noteRepeat d a =
      { s with rar := if d.cfClass = .repeated then rarInsert (nextAddr s.params d a) s.rar else s.rar } := by
  unfold State.noteRepeat
  split <;> rfl

@[simp] theorem noteRepeat_cfg (d : Descriptor) (a : Nat) : (s.noteRepeat d a).cfg = s.cfg := by
  rw [noteRepeat_eq]
@[simp] theorem noteRepeat_catalog (d : Descriptor) (a : Nat) : (s.noteRepeat d a).catalog = s.catalog := by
  rw [noteRepeat_eq]
@[simp] theorem noteRepeat_params (d : Descriptor) (a : Nat) : (s.noteRepeat d a).params = s.params := by
  rw [noteRepeat_eq]
@[simp] theorem noteRepeat_calls (d : Descriptor) (a : Nat) : (s.noteRepeat d a).calls = s.calls := by
  rw [noteRepeat_eq]
@[simp] theorem noteRepeat_returns (d : Descriptor) (a : Nat) : (s.noteRepeat d a).returns = s.returns := by
  rw [noteRepeat_eq]

@[simp] theorem withFetchWord_calls (nbits w : Nat) :
    (s.withFetchWord nbits w).calls = .analyse (tableWindow nbits w) 4 0 :: s.calls := rfl
@[simp] theorem withFetchWord_rar (nbits w : Nat) : (s.withFetchWord nbits w).rar = s.rar := rfl

end Sys2Proof.Machine
end

