-- ==== Sys2Proof/Laws/Ops.lean ====
section
/-! SUPPORT. Sys2Proof/Laws/Ops.lean: what serving the call at the head can do, said once. -/

namespace Sys2Proof.Machine

/-- The address a call names. -/
def callAddress : Call → Option Nat
  | .decode _ _ a => some a
  | .analyse _ _ a => some a
  | .classify _ a => some a
  | .render _ a => some a
  | .resolve _ _ => none

/-- Everything that serving the call at the head can do when it answers a next state. -/
inductive Served (r : Except Failure Decoded) (s : State) : State → Prop
  | idle (h : s.calls = []) : Served r s s
  | resolved (b : Byte) (w : LocWidth) (rest : List Call) (h : s.calls = .resolve b w :: rest) :
      Served r s (s.answer (.resolved b w (resolveAnswer s.params s.cfg.amode w b)))
  | failed (c : Call) (rest : List Call) (a : Nat) (f : Failure) (h : s.calls = c :: rest)
      (ha : callAddress c = some a) (hr : r = .error f) : Served r s (s.fail a f)
  | decoded (w : Window) (n a : Nat) (rest : List Call) (q : Decoded) (h : s.calls = .decode w n a :: rest)
      (hr : r = .ok q) : Served r s (s.answer (.decoded (s.params.addr a) q))
  | analysed (w : Window) (n a : Nat) (rest : List Call) (q : Decoded) (h : s.calls = .analyse w n a :: rest)
      (hr : r = .ok q) :
      Served r s ((s.answer (.decoded (s.params.addr a) q)).follow [.classify q a, .render q a])
  | classified (q' : Decoded) (a : Nat) (rest : List Call) (q : Decoded) (d : Descriptor) (es : List Edge)
      (h : s.calls = .classify q' a :: rest) (hr : r = .ok q) (hd : s.catalog[q.desc]? = some d)
      (he : edges s.params d q.values (s.params.addr a) = some es) :
      Served r s ((s.noteRepeat d (s.params.addr a)).answer (.classified (s.params.addr a) d.length es))
  | unresolved (q' : Decoded) (a : Nat) (rest : List Call) (q : Decoded) (d : Descriptor) (f : String)
      (h : s.calls = .render q' a :: rest) (hr : r = .ok q) (hd : s.catalog[q.desc]? = some d)
      (hu : unresolvedField d q = some f) : Served r s (s.fail a (.renderUnresolved f))
  | rendered (q' : Decoded) (a : Nat) (rest : List Call) (q : Decoded) (d : Descriptor) (ts : List Token)
      (h : s.calls = .render q' a :: rest) (hr : r = .ok q) (hd : s.catalog[q.desc]? = some d)
      (hu : unresolvedField d q = none)
      (ht : renderTokens s.params d q (s.params.addr a) (rarContains s.rar (s.params.addr a)) = some ts) :
      Served r s (s.answer (.rendered (s.params.addr a) d.length ts))

/-- Serving a step that concerns no record. -/
theorem serveOther_next (r : Except Failure Decoded) (s t : State) (h : serveOther s = .next t)
    (hc : s.calls = [] ∨ ∃ b w rest, s.calls = .resolve b w :: rest) : Served r s t := by
  unfold serveOther at h
  rcases hc with hc | ⟨b, w, rest, hc⟩
  · rw [hc] at h
    obtain rfl : s = t := by simpa using h
    exact .idle hc
  · rw [hc] at h
    obtain rfl := Host.Outcome.next.inj h
    exact .resolved b w rest hc

/-- Classify answers the class's edges and makes the registry effect, or refuses. -/
theorem answerClassify_next (q : Decoded) (a : Nat) (s t : State) (h : answerClassify q a s = .next t) :
    ∃ d es, s.catalog[q.desc]? = some d ∧ edges s.params d q.values (s.params.addr a) = some es ∧
      t = (s.noteRepeat d (s.params.addr a)).answer (.classified (s.params.addr a) d.length es) := by
  unfold answerClassify at h
  split at h
  · cases h
  · rename_i d hd
    split at h
    · cases h
    · rename_i es he
      exact ⟨d, es, hd, he, (Host.Outcome.next.inj h).symm⟩

/-- Render answers a failure for an unresolved location field, or the token stream, or refuses. -/
theorem answerRender_next (q : Decoded) (a : Nat) (s t : State) (h : answerRender q a s = .next t) :
    ∃ d, s.catalog[q.desc]? = some d ∧
      ((∃ f, unresolvedField d q = some f ∧ t = s.fail a (.renderUnresolved f)) ∨
       (unresolvedField d q = none ∧ ∃ ts,
          renderTokens s.params d q (s.params.addr a) (rarContains s.rar (s.params.addr a)) = some ts ∧
          t = s.answer (.rendered (s.params.addr a) d.length ts))) := by
  unfold answerRender at h
  split at h
  · cases h
  · rename_i d hd
    split at h
    · rename_i f hf
      exact ⟨d, hd, .inl ⟨f, hf, (Host.Outcome.next.inj h).symm⟩⟩
    · rename_i hu
      split at h
      · cases h
      · rename_i ts ht
        exact ⟨d, hd, .inr ⟨hu, ts, ht, (Host.Outcome.next.inj h).symm⟩⟩

/-- The one inversion lemma of `serve`. -/
theorem serve_next (r : Except Failure Decoded) (s t : State) (h : serve r s = .next t) : Served r s t := by
  cases hc : s.calls with
  | nil => exact serveOther_next r s t (by simpa [serve, hc] using h) (.inl hc)
  | cons c rest =>
    cases c with
    | resolve b w => exact serveOther_next r s t (by simpa [serve, hc] using h) (.inr ⟨b, w, rest, hc⟩)
    | decode w n a =>
      cases r with
      | error f =>
        obtain rfl : s.fail a f = t := by simpa [serve, hc] using h
        exact .failed _ rest a f hc rfl rfl
      | ok q =>
        obtain rfl : s.answer (.decoded (s.params.addr a) q) = t := by simpa [serve, hc, answerDecode] using h
        exact .decoded w n a rest q hc rfl
    | analyse w n a =>
      cases r with
      | error f =>
        obtain rfl : s.fail a f = t := by simpa [serve, hc] using h
        exact .failed _ rest a f hc rfl rfl
      | ok q =>
        obtain rfl : (s.answer (.decoded (s.params.addr a) q)).follow [.classify q a, .render q a] = t := by
          simpa [serve, hc, answerAnalyse] using h
        exact .analysed w n a rest q hc rfl
    | classify q' a =>
      cases r with
      | error f =>
        obtain rfl : s.fail a f = t := by simpa [serve, hc] using h
        exact .failed _ rest a f hc rfl rfl
      | ok q =>
        obtain ⟨d, es, hd, he, rfl⟩ := answerClassify_next q a s t (by simpa [serve, hc] using h)
        exact .classified q' a rest q d es hc rfl hd he
    | render q' a =>
      cases r with
      | error f =>
        obtain rfl : s.fail a f = t := by simpa [serve, hc] using h
        exact .failed _ rest a f hc rfl rfl
      | ok q =>
        obtain ⟨d, hd, ⟨f, hf, rfl⟩ | ⟨hu, ts, ht, rfl⟩⟩ := answerRender_next q a s t (by simpa [serve, hc] using h)
        · exact .unresolved q' a rest q d f hc rfl hd hf
        · exact .rendered q' a rest q d ts hc rfl hd hu ht

/-- Every meaning is the shared operation on its own row and its own word. -/
theorem exec_eq_serveRow (i : Instr) (s : State) : exec i s = serveRow i.selects i.wordIn s := by
  cases i <;> rfl

/-- `serveRow` refuses exactly where the catalog holds no row, and else serves the finished record of the first. -/
theorem serveRow_eq (sel : Descriptor → Bool) (word : Descriptor → Op32) (s : State) :
    serveRow sel word s = .refused .noSuchRow ∧ (∀ d ∈ s.catalog, sel d = false) ∨
    ∃ k d, findRow sel s.catalog 0 = some (k, d) ∧
      serveRow sel word s = serve (finish s.params s.cfg k d (word d)) s := by
  unfold serveRow
  cases h : findRow sel s.catalog 0 with
  | none => exact .inl ⟨rfl, (findRow_eq_none _ _ _).mp h⟩
  | some kd => exact .inr ⟨kd.1, kd.2, rfl, rfl⟩

/-- A record identified as an instruction is the finished record of that instruction's row. -/
theorem identify_eq_some (p : Params) (c : Cfg) (cat : Catalog) (r : Decoded) (i : Instr)
    (h : identify p c cat r = some i) :
    ∃ k d, findRow i.selects cat 0 = some (k, d) ∧ finish p c k d (i.wordIn d) = .ok r := by
  unfold identify at h
  split at h
  · cases h
  · split at h
    · cases h
    · rename_i j hj
      split at h
      · rename_i r' hr
        split at h
        · rename_i heq
          obtain rfl := Option.some.inj h
          subst heq
          unfold Instr.record at hr
          cases hf : findRow j.selects cat 0 with
          | none => simp [hf] at hr
          | some kd => exact ⟨kd.1, kd.2, rfl, by simpa [hf] using hr⟩
        · cases h
      · cases h

/-- A record of a decode fits the catalog it came from. -/
theorem recordFits_of_decode (p : Params) (c : Cfg) (cat : Catalog) (w : Window) (n : Nat) (r : Decoded)
    (h : decodeWindow p c cat w n = .ok r) : recordFits cat r = true := by
  obtain ⟨d, hp, hf⟩ := decodeWindow_eq_ok p c cat w n r h
  obtain ⟨hd, -, -⟩ := (findRow_eq_some _ _ _ _).mp hp
  obtain ⟨locs, -, hr⟩ := (finish_eq_ok _ _ _ _ _ _).mp hf
  have hv : r.values = applyObj c d (assigned (extractValues (w.opcode r.length) d.fields)) := congrArg Decoded.values hr
  simp only [recordFits, hd, List.all_eq_true]
  intro f hmem
  rw [hv, applyObj_isSome, assigned_isSome]
  exact extractValues_isSome _ _ _ hmem

end Sys2Proof.Machine
end

