-- ==== Sys2Proof/Laws/PerInstr.lean ====
section
/-! SUPPORT. Sys2Proof/Laws/PerInstr.lean: per instruction, its word in its row of `CATALOG_GK` matches that row (40_dispatch.md R102). -/

namespace Sys2Proof.Laws

/-- The word the encoder writes for an instruction in its row of the default catalog matches the row. -/
def WordMatchesRow.Statement (i : Instr) : Prop :=
  ∀ d ∈ catalogGK, i.selects d = true → d.matches (i.wordIn d) = true

/-- Every row of the default catalog is well formed (30_encoding.md R66 to R68). -/
theorem catalogGK_wf : ∀ d ∈ catalogGK, d.wf = true := by decide

/-- An instruction whose word is assembled from field values matches its row. -/
theorem wordMatchesRow_of_assembled (i : Instr) (vals : List Nat) (h : ∀ d, i.wordIn d = d.assemble vals) :
    WordMatchesRow.Statement i := fun d hd _ => by
  rw [h d]
  exact assemble_matches d vals (catalogGK_wf d hd)

/-- An instruction of an open row has no row in the default catalog (44_catalog.md section 3). -/
theorem wordMatchesRow_of_open (i : Instr) (sel : Descriptor → Bool) (hi : i.selects = sel)
    (h : ∀ d ∈ catalogGK, sel d = false) : WordMatchesRow.Statement i := fun d hd hs => by
  simp [hi, h d hd] at hs

theorem WordMatchesRow.itrap0 : WordMatchesRow.Statement (.itrap0) :=
  wordMatchesRow_of_assembled _ [] (fun _ => rfl)

theorem WordMatchesRow.itrap1 : WordMatchesRow.Statement (.itrap1) :=
  wordMatchesRow_of_assembled _ [] (fun _ => rfl)

theorem WordMatchesRow.aborti : WordMatchesRow.Statement (.aborti) :=
  wordMatchesRow_of_assembled _ [] (fun _ => rfl)

theorem WordMatchesRow.lretr : WordMatchesRow.Statement (.lretr) :=
  wordMatchesRow_of_assembled _ [] (fun _ => rfl)

theorem WordMatchesRow.trap (n : BitVec 5) : WordMatchesRow.Statement (.trap n) :=
  wordMatchesRow_of_assembled _ [n.toNat] (fun _ => rfl)

theorem WordMatchesRow.iret : WordMatchesRow.Statement (.iret) :=
  wordMatchesRow_of_assembled _ [] (fun _ => rfl)

theorem WordMatchesRow.lrete : WordMatchesRow.Statement (.lrete) :=
  wordMatchesRow_of_assembled _ [] (fun _ => rfl)

theorem WordMatchesRow.lret : WordMatchesRow.Statement (.lret) :=
  wordMatchesRow_of_assembled _ [] (fun _ => rfl)

theorem WordMatchesRow.lbXar7 : WordMatchesRow.Statement (.lbXar7) :=
  wordMatchesRow_of_assembled _ [] (fun _ => rfl)

theorem WordMatchesRow.nop : WordMatchesRow.Statement (.nop) :=
  wordMatchesRow_of_assembled _ [] (fun _ => rfl)

theorem WordMatchesRow.eint : WordMatchesRow.Statement (.eint) :=
  wordMatchesRow_of_assembled _ [] (fun _ => rfl)

theorem WordMatchesRow.clrc (mode : BitVec 8) : WordMatchesRow.Statement (.clrc mode) :=
  wordMatchesRow_of_assembled _ [mode.toNat] (fun _ => rfl)

theorem WordMatchesRow.dint : WordMatchesRow.Statement (.dint) :=
  wordMatchesRow_of_assembled _ [] (fun _ => rfl)

theorem WordMatchesRow.setc (mode : BitVec 8) : WordMatchesRow.Statement (.setc mode) :=
  wordMatchesRow_of_assembled _ [mode.toNat] (fun _ => rfl)

theorem WordMatchesRow.sb (cond : BitVec 4) (off8 : BitVec 8) : WordMatchesRow.Statement (.sb cond off8) :=
  wordMatchesRow_of_assembled _ [cond.toNat, off8.toNat] (fun _ => rfl)

theorem WordMatchesRow.rptImm (imm8 : BitVec 8) : WordMatchesRow.Statement (.rptImm imm8) :=
  wordMatchesRow_of_assembled _ [imm8.toNat] (fun _ => rfl)

theorem WordMatchesRow.rptLoc (loc : Byte) : WordMatchesRow.Statement (.rptLoc loc) :=
  wordMatchesRow_of_assembled _ [loc.toNat] (fun _ => rfl)

theorem WordMatchesRow.movlAccLoc (loc : Byte) : WordMatchesRow.Statement (.movlAccLoc loc) :=
  wordMatchesRow_of_assembled _ [loc.toNat] (fun _ => rfl)

theorem WordMatchesRow.movAlLoc (loc : Byte) : WordMatchesRow.Statement (.movAlLoc loc) :=
  wordMatchesRow_of_assembled _ [loc.toNat] (fun _ => rfl)

theorem WordMatchesRow.movAhLoc (loc : Byte) : WordMatchesRow.Statement (.movAhLoc loc) :=
  wordMatchesRow_of_assembled _ [loc.toNat] (fun _ => rfl)

theorem WordMatchesRow.movLocAl (loc : Byte) : WordMatchesRow.Statement (.movLocAl loc) :=
  wordMatchesRow_of_assembled _ [loc.toNat] (fun _ => rfl)

theorem WordMatchesRow.movLocAh (loc : Byte) : WordMatchesRow.Statement (.movLocAh loc) :=
  wordMatchesRow_of_assembled _ [loc.toNat] (fun _ => rfl)

theorem WordMatchesRow.addb (imm8 : BitVec 8) : WordMatchesRow.Statement (.addb imm8) :=
  wordMatchesRow_of_assembled _ [imm8.toNat] (fun _ => rfl)

theorem WordMatchesRow.lb (imm22 : BitVec 22) : WordMatchesRow.Statement (.lb imm22) :=
  wordMatchesRow_of_assembled _ [imm22.toNat] (fun _ => rfl)

theorem WordMatchesRow.lc (imm22 : BitVec 22) : WordMatchesRow.Statement (.lc imm22) :=
  wordMatchesRow_of_assembled _ [imm22.toNat] (fun _ => rfl)

theorem WordMatchesRow.ffc (imm22 : BitVec 22) : WordMatchesRow.Statement (.ffc imm22) :=
  wordMatchesRow_of_assembled _ [imm22.toNat] (fun _ => rfl)

theorem WordMatchesRow.lcr (imm22 : BitVec 22) : WordMatchesRow.Statement (.lcr imm22) :=
  wordMatchesRow_of_assembled _ [imm22.toNat] (fun _ => rfl)

theorem WordMatchesRow.banz (n : BitVec 3) (off16 : BitVec 16) : WordMatchesRow.Statement (.banz n off16) :=
  wordMatchesRow_of_assembled _ [n.toNat, off16.toNat] (fun _ => rfl)

theorem WordMatchesRow.b (cond : BitVec 4) (off16 : BitVec 16) : WordMatchesRow.Statement (.b cond off16) :=
  wordMatchesRow_of_assembled _ [cond.toNat, off16.toNat] (fun _ => rfl)

theorem WordMatchesRow.movAccImm (shift : BitVec 4) (imm16 : BitVec 16) : WordMatchesRow.Statement (.movAccImm shift imm16) :=
  wordMatchesRow_of_assembled _ [shift.toNat, imm16.toNat] (fun _ => rfl)

theorem WordMatchesRow.inLoc (loc : Byte) (pa : BitVec 16) : WordMatchesRow.Statement (.inLoc loc pa) :=
  wordMatchesRow_of_assembled _ [loc.toNat, pa.toNat] (fun _ => rfl)

theorem WordMatchesRow.loopz (loc : Byte) (imm16 : BitVec 16) : WordMatchesRow.Statement (.loopz loc imm16) :=
  wordMatchesRow_of_assembled _ [loc.toNat, imm16.toNat] (fun _ => rfl)

theorem WordMatchesRow.loopnz (loc : Byte) (imm16 : BitVec 16) : WordMatchesRow.Statement (.loopnz loc imm16) :=
  wordMatchesRow_of_assembled _ [loc.toNat, imm16.toNat] (fun _ => rfl)

theorem WordMatchesRow.rptb (raw : Op32) : WordMatchesRow.Statement (.rptb raw) :=
  wordMatchesRow_of_open _ (isNamed "RPTB" .repeated) rfl (by decide)

theorem WordMatchesRow.xbArp (raw : Op32) : WordMatchesRow.Statement (.xbArp raw) :=
  wordMatchesRow_of_open _ (isNamed "XB" .jumpXbank) rfl (by decide)

theorem WordMatchesRow.xbCond (raw : Op32) : WordMatchesRow.Statement (.xbCond raw) :=
  wordMatchesRow_of_open _ (isNamed "XB" .condXbank) rfl (by decide)

theorem WordMatchesRow.xcallArp (raw : Op32) : WordMatchesRow.Statement (.xcallArp raw) :=
  wordMatchesRow_of_open _ (isNamed "XCALL" .callXbank) rfl (by decide)

theorem WordMatchesRow.xretc (raw : Op32) : WordMatchesRow.Statement (.xretc raw) :=
  wordMatchesRow_of_open _ (isNamed "XRETC" .ret) rfl (by decide)

theorem WordMatchesRow.lcXar7 (raw : Op32) : WordMatchesRow.Statement (.lcXar7 raw) :=
  wordMatchesRow_of_open _ (isNamed "LC" .indCall) rfl (by decide)

theorem WordMatchesRow.lcrXar (raw : Op32) : WordMatchesRow.Statement (.lcrXar raw) :=
  wordMatchesRow_of_open _ (isNamed "LCR" .indCall) rfl (by decide)

theorem WordMatchesRow.sbf (raw : Op32) : WordMatchesRow.Statement (.sbf raw) :=
  wordMatchesRow_of_open _ (isNamedRel "SBF" .current) rfl (by decide)

theorem WordMatchesRow.bar (raw : Op32) : WordMatchesRow.Statement (.bar raw) :=
  wordMatchesRow_of_open _ (isNamedRel "BAR" .next) rfl (by decide)

theorem WordMatchesRow.bf (raw : Op32) : WordMatchesRow.Statement (.bf raw) :=
  wordMatchesRow_of_open _ (isNamedRel "BF" .next) rfl (by decide)

theorem WordMatchesRow.intr (raw : Op32) : WordMatchesRow.Statement (.intr raw) :=
  wordMatchesRow_of_open _ (isNamed "INTR" .trap) rfl (by decide)

end Sys2Proof.Laws
end

