-- ==== Sys2Proof/Laws/Registry.lean ====
section
/-! SUPPORT. Sys2Proof/Laws/Registry.lean: the registry primitives as set operations, and the canonical form they keep. -/

namespace Sys2Proof.Machine

/-- `RAR.insert` adds exactly the address (10_state.md R27). -/
theorem mem_rarInsert (a x : Nat) (r : List Nat) : x ∈ rarInsert a r ↔ x = a ∨ x ∈ r := by
  induction r with
  | nil => simp [rarInsert]
  | cons b rest ih =>
    unfold rarInsert
    split
    · simp
    · split
      · simp_all
      · simp [ih]; tauto

/-- An insert keeps the list strictly rising. -/
theorem rarInsert_pairwise (a : Nat) (r : List Nat) (h : r.Pairwise (· < ·)) :
    (rarInsert a r).Pairwise (· < ·) := by
  induction r with
  | nil => simp [rarInsert]
  | cons b rest ih =>
    obtain ⟨hb, hrest⟩ := List.pairwise_cons.mp h
    unfold rarInsert
    split
    · rename_i hab
      refine List.pairwise_cons.mpr ⟨fun x hx => ?_, h⟩
      rcases List.mem_cons.mp hx with rfl | hx
      · exact hab
      · exact lt_trans hab (hb x hx)
    · split
      · exact h
      · refine List.pairwise_cons.mpr ⟨fun x hx => ?_, ih hrest⟩
        rcases (mem_rarInsert a x rest).mp hx with rfl | hx
        · omega
        · exact hb x hx

/-- An insert of an address on the `ADDR_WIDTH` lines keeps the canonical form. -/
theorem rarInsert_wf (p : Params) (a : Nat) (r : List Nat) (ha : a < 2 ^ p.addrWidth) (h : RarWf p r) :
    RarWf p (rarInsert a r) := by
  refine ⟨rarInsert_pairwise a r h.1, fun x hx => ?_⟩
  rcases (mem_rarInsert a x r).mp hx with rfl | hx
  · exact ha
  · exact h.2 x hx

/-- Inserting a member changes nothing (10_state.md R27, R28). -/
theorem rarInsert_of_mem (a : Nat) (r : List Nat) (hr : r.Pairwise (· < ·)) (ha : a ∈ r) :
    rarInsert a r = r := by
  induction r with
  | nil => simp at ha
  | cons b rest ih =>
    obtain ⟨hb, hrest⟩ := List.pairwise_cons.mp hr
    unfold rarInsert
    rcases List.mem_cons.mp ha with rfl | ha
    · simp
    · have := hb a ha
      rw [if_neg (by omega), if_neg (by omega), ih hrest ha]

/-- The primitive answers membership. -/
theorem rarContains_iff (r : List Nat) (a : Nat) : rarContains r a = true ↔ a ∈ r := by
  simp [rarContains]

/-- The address classify inserts is on the `ADDR_WIDTH` lines. -/
theorem addrAdd_lt (p : Params) (a : Nat) (d : Int) : p.addrAdd a d < 2 ^ p.addrWidth := by
  have h : (0 : Int) < ((2 ^ p.addrWidth : Nat) : Int) := by positivity
  have h0 := Int.emod_nonneg ((a : Int) + d) (ne_of_gt h)
  have h1 := Int.emod_lt_of_pos ((a : Int) + d) h
  rw [Params.addrAdd, Int.toNat_lt h0]
  exact h1

/-- An address taken by a port is on the `ADDR_WIDTH` lines. -/
theorem addr_lt (p : Params) (a : Nat) : p.addr a < 2 ^ p.addrWidth :=
  Nat.mod_lt _ (by positivity)

end Sys2Proof.Machine
end

