-- ==== Sys2Proof/Laws/Render.lean ====
section
/-! SUPPORT. Sys2Proof/Laws/Render.lean: when a record has a token stream. -/

namespace Sys2Proof

/-- A value inside its kind is the number shown (43_render.md R179 to R187). -/
theorem shownNat_of_shows (d : Descriptor) (f : Field) (v : Int) (h : f.kind.shows v = true) : shownNat d f v = v.toNat :=
  if_pos h

/-- A finished record lacks no addressing descriptor (43_render.md R189). -/
theorem unresolvedField_of_finish (p : Params) (c : Cfg) (k : Nat) (d : Descriptor) (op : Op32) (r : Decoded)
    (h : finish p c k d op = .ok r) : unresolvedField d r = none := by
  obtain ⟨locs, hl, rfl⟩ := (finish_eq_ok _ _ _ _ _ _).mp h
  unfold unresolvedField
  split
  · rename_i f hf
    have hp := List.find?_some hf
    simp at hp
    have := extractLocs_isSome _ _ _ _ _ hl f (List.mem_of_find?_eq_some hf) hp.1
    rw [← assigned_isSome, hp.2] at this
    cases this
  · rfl

/-- A concatenation has a stream when each piece has one. -/
theorem concatTokens_isSome {α : Type} (f : α → Option (List Token)) (l : List α)
    (h : ∀ x ∈ l, (f x).isSome = true) : (concatTokens f l).isSome = true := by
  induction l with
  | nil => rfl
  | cons x rest ih =>
    obtain ⟨a, ha⟩ := Option.isSome_iff_exists.mp (h x List.mem_cons_self)
    obtain ⟨b, hb⟩ := Option.isSome_iff_exists.mp (ih (fun y hy => h y (List.mem_cons_of_mem _ hy)))
    simp [concatTokens, ha, hb]

/-- A part that names a field of its row has a stream for every record that holds the fields, their addressing
descriptors and the target. -/
theorem partTokens_isSome (p : Params) (d : Descriptor) (r : Decoded) (a : Nat) (q : Part)
    (hv : ∀ f ∈ d.fields, (lookupField r.values f.name).isSome = true)
    (hl : ∀ f ∈ d.fields, f.kind.locWidth?.isSome = true → (lookupField r.addr f.name).isSome = true)
    (ht : d.cfClass.hasTarget = true → (target p d r.values a).isSome = true) (hq : Part.ok d q = true) :
    (partTokens p d r a q).isSome = true := by
  have hs : ∀ name v, (shownAddress p d r.values a name v).isSome = true := by
    intro name v
    unfold shownAddress
    split
    · exact ht ‹_›
    · rfl
  have hval : ∀ name f, d.field? name = some f → f ∈ d.fields ∧ ∃ v, lookupField r.values name = some v := by
    intro name f hf
    have hm := List.mem_reverse.mp (List.mem_of_find?_eq_some hf)
    have hn : f.name = name := by simpa using List.find?_some hf
    exact ⟨hm, hn ▸ Option.isSome_iff_exists.mp (hv f hm)⟩
  cases q with
  | text t => rfl
  | reg g => rfl
  | field name =>
    obtain ⟨f, hf⟩ := Option.isSome_iff_exists.mp hq
    obtain ⟨hm, v, hvv⟩ := hval name f hf
    have := hl f hm
    simp only [partTokens, hf, hvv]
    unfold fieldTokens
    cases hk : f.kind <;> simp [hk, FieldKind.locWidth?, hs] at this ⊢ <;> exact this
  | counter name =>
    simp only [Part.ok] at hq
    split at hq
    · rename_i f hf
      obtain ⟨-, v, hvv⟩ := hval name f hf
      simp at hq
      simp [partTokens, hf, hvv, hq]
    · cases hq

/-- A row whose operands name its own fields has a token stream for every such record (43_render.md R173). -/
theorem renderTokens_isSome (p : Params) (d : Descriptor) (r : Decoded) (a : Nat) (marked : Bool)
    (hv : ∀ f ∈ d.fields, (lookupField r.values f.name).isSome = true) (hu : unresolvedField d r = none)
    (ho : d.operandsOk = true) (ht : d.cfClass.hasTarget = true → (target p d r.values a).isSome = true) :
    (renderTokens p d r a marked).isSome = true := by
  have hl : ∀ f ∈ d.fields, f.kind.locWidth?.isSome = true → (lookupField r.addr f.name).isSome = true := by
    intro f hf hk
    unfold unresolvedField at hu
    split at hu
    · cases hu
    · rename_i hn
      have := List.find?_eq_none.mp hn f hf
      simp [hk] at this
      simpa [Option.isSome_iff_ne_none] using this
  have hops : ∀ os : List (List Part), (∀ o ∈ os, ∀ q ∈ o, Part.ok d q = true) →
      (operandsTokens p d r a os).isSome = true := by
    intro os
    induction os with
    | nil => intro _; rfl
    | cons o rest ih =>
      intro h
      have h1 : (operandTokens p d r a o).isSome = true :=
        concatTokens_isSome _ _ (fun q hq => partTokens_isSome p d r a q hv hl ht (h o List.mem_cons_self q hq))
      have h2 := ih (fun o' ho' => h o' (List.mem_cons_of_mem _ ho'))
      cases rest with
      | nil => exact h1
      | cons o' rest =>
        obtain ⟨x, hx⟩ := Option.isSome_iff_exists.mp h1
        obtain ⟨y, hy⟩ := Option.isSome_iff_exists.mp h2
        simp only [operandsTokens] at *
        rw [hx, hy]
        rfl
  simp only [renderTokens, Option.isSome_map]
  apply hops
  simpa [Descriptor.operandsOk] using ho

end Sys2Proof
end

