-- ==== Sys2Proof/Tests/Slice0.lean ====
section
/-! SUPPORT. Sys2Proof/Tests/Slice0.lean: tests on small inputs, with the expected values from spec/95_test_vectors.md (named in each
docstring) or worked out by hand from the rule named, and one witness for the hypotheses of each statement. -/

namespace Sys2Proof.Tests

open Sys2Proof Sys2Proof.Machine

set_option maxRecDepth 4000

/-! ### Helpers -/

/-- The reset instance with calls pending. -/
def calling (cs : List Call) : State := { State.reset with calls := cs }

/-- The same in variant C2XLP. -/
def callingXlp (cs : List Call) : State := { State.reset with cfg := Cfg.c2xlp, calls := cs }

/-- The same over another catalog. -/
def callingOver (cat : Catalog) (cs : List Call) : State := { State.reset with catalog := cat, calls := cs }

/-- A window of four bytes. -/
def win (a b c d : Nat) : Window := ⟨BitVec.ofNat 8 a, BitVec.ofNat 8 b, BitVec.ofNat 8 c, BitVec.ofNat 8 d⟩

/-- A record for calls whose record plays no part. -/
def anyRecord : Decoded := ⟨0, .two, 0, [], []⟩

/-- The last value returned. -/
def answerOf : Out → Option Reply
  | .next s => s.returns.getLast?
  | _ => none

/-- What classify returns for an instruction. -/
def edgesBy (i : Instr) (s : State) (a : Nat) : Option (Len × List Edge) :=
  match answerOf (exec i { s with calls := [.classify anyRecord a] }) with
  | some (.classified _ len es) => some (len, es)
  | _ => none

/-- The listing line that render returns for an instruction. -/
def lineBy (i : Instr) (s : State) (a : Nat) : Option String :=
  match answerOf (exec i { s with calls := [.render anyRecord a] }) with
  | some (.rendered _ _ ts) => some (listingLine ts)
  | _ => none

/-- The listing of a location byte. -/
def locLine (p : Params) (amode : Bool) (w : LocWidth) (b : Nat) : Option String :=
  (resolve p amode w (BitVec.ofNat 8 b)).map (fun l => listingLine l.tokens)

/-- The parameters with category 8 ahead of category 5. -/
def beforeCat5 : Params := { Params.default with arpDecorPriority := .beforeCat5 }

/-- The parameters with six direct-mode bits. -/
def sixBits : Params := { Params.default with directMode1Bits := .six }

/-- The parameters under which the code UNC is unconditional. -/
def uncFlat : Params := { Params.default with uncAsUnconditional := true }

/-! ### A catalog with one row for each open encoding

The encodings are the tests' own: the spec leaves them open (44_catalog.md section 3). -/

def openLoopz : Descriptor :=
  { opcode := 0x2C000000, mask := 0xFF000000, length := .four, mnemonic := "LOOPZ",
    fields := [⟨"loc", 16, 8, .loc16⟩, ⟨"imm16", 0, 16, .immU⟩],
    operands := [[.field "loc"], [.field "imm16"]], cfClass := .loopWait }
def openLoopnz : Descriptor := { openLoopz with opcode := 0x2E000000, mnemonic := "LOOPNZ" }
def openRptb : Descriptor :=
  { opcode := 0x35000000, mask := 0xFF000000, length := .four, mnemonic := "RPTB",
    fields := [⟨"size", 16, 8, .immU⟩, ⟨"loc", 0, 8, .loc16⟩],
    operands := [[.field "size"], [.field "loc"]], cfClass := .repeated }
def openXbArp : Descriptor :=
  { opcode := 0x3E000000, mask := 0xFFFF0000, length := .four, mnemonic := "XB", fields := [⟨"pma", 0, 16, .pma16⟩],
    operands := [[.field "pma"]], cfClass := .jumpXbank }
def openXbCond : Descriptor :=
  { opcode := 0x56D00000, mask := 0xFFF00000, length := .four, mnemonic := "XB",
    fields := [⟨"cond", 16, 4, .cond⟩, ⟨"pma", 0, 16, .pma16⟩],
    operands := [[.field "pma"], [.field "cond"]], cfClass := .condXbank }
def openXcall : Descriptor :=
  { openXbArp with opcode := 0x3E010000, mnemonic := "XCALL", cfClass := .callXbank }
def openXretc : Descriptor :=
  { opcode := 0x56E0, mask := 0xFFF0, length := .two, mnemonic := "XRETC", fields := [⟨"cond", 0, 4, .cond⟩],
    operands := [[.field "cond"]], cfClass := .ret }
def openLcXar7 : Descriptor :=
  { opcode := 0x7604, mask := 0xFFFF, length := .two, mnemonic := "LC", operands := [[.text "*", .reg (.xar 7)]],
    cfClass := .indCall }
def openLcrXar : Descriptor :=
  { opcode := 0x3E60, mask := 0xFFF8, length := .two, mnemonic := "LCR", fields := [⟨"n", 0, 3, .areg⟩],
    operands := [[.text "*", .field "n"]], cfClass := .indCall }
def openSbf : Descriptor :=
  { opcode := 0xEC00, mask := 0xFC00, length := .two, mnemonic := "SBF",
    fields := [⟨"cond", 8, 2, .cond⟩, ⟨"off8", 0, 8, .rel⟩],
    operands := [[.field "off8"], [.field "cond"]], cfClass := .condRel, relBase := some .current }
def openBar : Descriptor :=
  { opcode := 0x8F000000, mask := 0xFFFF0000, length := .four, mnemonic := "BAR", fields := [⟨"off16", 0, 16, .rel⟩],
    operands := [[.field "off16"]], cfClass := .condRel, relBase := some .next }
def openBf : Descriptor :=
  { opcode := 0x56C00000, mask := 0xFFF00000, length := .four, mnemonic := "BF",
    fields := [⟨"cond", 16, 4, .cond⟩, ⟨"off16", 0, 16, .rel⟩],
    operands := [[.field "off16"], [.field "cond"]], cfClass := .condRel, relBase := some .next }
def openIntr : Descriptor :=
  { opcode := 0x0010, mask := 0xFFF0, length := .two, mnemonic := "INTR", fields := [⟨"n", 0, 4, .immU⟩],
    operands := [[.field "n"]], cfClass := .trap }

/-- One row for each open encoding. -/
def catalogOpen : Catalog :=
  [openLoopz, openLoopnz, openRptb, openXbArp, openXbCond, openXcall, openXretc] ++
  [openLcXar7, openLcrXar, openSbf, openBar, openBf, openIntr]

/-- The instruction a window decodes to over `catalogOpen`. -/
def decodeOpen (w : Window) : Option Instr :=
  match decodeInstr Params.default Cfg.c28x catalogOpen w 4 with
  | .ok i => i
  | .error _ => none

/-- The catalog passes the validator and has the fields its classes and operands read. -/
theorem test_catalogOpen_valid : catalogOpen.valid [] ∧ catalogOpen.complete := by decide

/-! ### WellFormed: each check refuses an ill-formed term -/

theorem test_wf_clrc : Instr.wellFormed Params.default false (.clrc 0x10) = false ∧
    Instr.wellFormed Params.default false (.clrc 0x11) = true := by decide
theorem test_wf_setc : Instr.wellFormed Params.default false (.setc 0x10) = false ∧
    Instr.wellFormed Params.default false (.setc 0x30) = true := by decide
theorem test_wf_loc_mode : Instr.wellFormed Params.default true (.movAlLoc 0xC0) = false ∧
    Instr.wellFormed Params.default false (.movAlLoc 0xC0) = true := by decide
theorem test_wf_loc_width : Instr.wellFormed Params.default false (.movlAccLoc 0xA8) = false ∧
    Instr.wellFormed Params.default false (.movAlLoc 0xA8) = true := by decide
theorem test_wf_loc_all : (Instr.wellFormed Params.default true <$>
    [.rptLoc 0xF8, .movAhLoc 0xC7, .movLocAl 0xC0, .movLocAh 0xFF, .inLoc 0xC0 0]) =
    [false, false, false, false, false] := by decide
theorem test_wf_open : (Instr.wellFormed Params.default false <$>
    [.loopz 0 0, .loopnz 0 0, .rptb 0, .xbArp 0, .xbCond 0, .xcallArp 0, .xretc 0, .lcXar7 0, .lcrXar 0, .sbf 0,
      .bar 0, .bf 0, .intr 0]) = List.replicate 13 false := by decide

/-! ### Decoding: words written out bit by bit from 44_catalog.md R195 to R225 -/

theorem test_decode_traps :
    decodeTableWord 16 0b0000000000000000 = some .itrap0 ∧
    decodeTableWord 16 0b1111111111111111 = some .itrap1 ∧
    decodeTableWord 16 0b0000000000000001 = some .aborti ∧
    decodeTableWord 16 0b0000000000111111 = some (.trap 31) := by decide
theorem test_decode_returns :
    decodeTableWord 16 0b0000000000000110 = some .lretr ∧
    decodeTableWord 16 0b0111011000000010 = some .iret ∧
    decodeTableWord 16 0b0111011000010000 = some .lrete ∧
    decodeTableWord 16 0b0111011000010100 = some .lret := by decide
theorem test_decode_branches16 :
    decodeTableWord 16 0b0111011000100000 = some .lbXar7 ∧
    decodeTableWord 16 0b0110111110000000 = some (.sb 15 0x80) := by decide
theorem test_decode_flags :
    decodeTableWord 16 0b0010100100010000 = some .eint ∧
    decodeTableWord 16 0b0010100100010001 = some (.clrc 0x11) ∧
    decodeTableWord 16 0b0011101100010000 = some .dint ∧
    decodeTableWord 16 0b0011101110000000 = some (.setc 0x80) := by decide
theorem test_decode_repeat :
    decodeTableWord 16 0b0111011100000000 = some .nop ∧
    decodeTableWord 16 0b1111011011111111 = some (.rptImm 0xFF) ∧
    decodeTableWord 16 0b1111011110101001 = some (.rptLoc 0xA9) := by decide
theorem test_decode_moves :
    decodeTableWord 16 0b0000011010101001 = some (.movlAccLoc 0xA9) ∧
    decodeTableWord 16 0b1001001010000010 = some (.movAlLoc 0x82) ∧
    decodeTableWord 16 0b1001001110111111 = some (.movAhLoc 0xBF) ∧
    decodeTableWord 16 0b1001011010000010 = some (.movLocAl 0x82) ∧
    decodeTableWord 16 0b1001011110111101 = some (.movLocAh 0xBD) := by decide
theorem test_decode_immediates :
    decodeTableWord 16 0b0000100100000001 = some (.addb 1) ∧
    decodeTableWord 32 0b11111111001000110001001000110100 = some (.movAccImm 3 0x1234) ∧
    decodeTableWord 32 0b10110100100000000001001000110100 = some (.inLoc 0x80 0x1234) := by decide
theorem test_decode_absolute :
    decodeTableWord 32 0b00000000011111110000000000000000 = some (.lb 0x3F0000) ∧
    decodeTableWord 32 0b00000000100100100011010001010110 = some (.lc 0x123456) ∧
    decodeTableWord 32 0b00000000110000000001000000000000 = some (.ffc 0x1000) ∧
    decodeTableWord 32 0b01110110010100100011010001010110 = some (.lcr 0x123456) := by decide
theorem test_decode_relative32 :
    decodeTableWord 32 0b00000000000010101111111111111100 = some (.banz 2 0xFFFC) ∧
    decodeTableWord 32 0b11111111111000001111111111111110 = some (.b 0 0xFFFE) := by decide

/-- The open rows, by the words of `catalogOpen`. -/
theorem test_decode_open16 :
    decodeOpen (win 0xE1 0x56 0 0) = some (.xretc 0x56E1) ∧ decodeOpen (win 0x04 0x76 0 0) = some (.lcXar7 0x7604) ∧
    decodeOpen (win 0x65 0x3E 0 0) = some (.lcrXar 0x3E65) ∧ decodeOpen (win 0xFE 0xED 0 0) = some (.sbf 0xEDFE) ∧
    decodeOpen (win 0x1C 0x00 0 0) = some (.intr 0x1C) := by decide
theorem test_decode_open32 :
    decodeOpen (win 0x82 0x2C 0x34 0x12) = some (.loopz 0x82 0x1234) ∧
    decodeOpen (win 0x82 0x2E 0x34 0x12) = some (.loopnz 0x82 0x1234) ∧
    decodeOpen (win 0x07 0x35 0x80 0x00) = some (.rptb 0x35070080) ∧
    decodeOpen (win 0x00 0x3E 0x34 0x12) = some (.xbArp 0x3E001234) ∧
    decodeOpen (win 0xD1 0x56 0x34 0x12) = some (.xbCond 0x56D11234) ∧
    decodeOpen (win 0x01 0x3E 0x34 0x12) = some (.xcallArp 0x3E011234) ∧
    decodeOpen (win 0x00 0x8F 0xFC 0xFF) = some (.bar 0x8F00FFFC) ∧
    decodeOpen (win 0xCF 0x56 0xFC 0xFF) = some (.bf 0x56CFFFFC) := by decide

/-! ### Codec -/

/-- V-M1: both fixtures. -/
theorem test_byte_order : (win 0x11 0x22 0x33 0x44).opcode16 = 0x2211 ∧ (win 0x11 0x22 0x33 0x44).opcode32 = 0x22114433 ∧
    (win 0x52 0x76 0x56 0x34).opcode32 = 0x76523456 := by decide
/-- V-E1. -/
theorem test_getters : (rowSb.fields.map (fun f => f.get 0x61FD)) = [1, 0xFD] ∧
    (rowBanz.fields.map (fun f => f.get 0x000AFFFC)) = [2, 0xFFFC] ∧
    (rowInLoc.fields.map (fun f => f.get 0xB4801234)) = [0x80, 0x1234] ∧
    (rowMovAccImm.fields.map (fun f => f.get 0xFF231234)) = [3, 0x1234] ∧
    (rowLcr.fields.map (fun f => f.get 0x76523456)) = [0x123456] := by decide
/-- V-E2. -/
theorem test_sext : [0xFE, 0xFD, 0x80, 0x7F, 0x00].map (sext 8) = [-2, -3, -128, 127, 0] ∧
    [0xFFFE, 0x8000, 0x7FFF].map (sext 16) = [-2, -32768, 32767] := by decide
/-- V-E3 and the non-clear template of V-E4. -/
theorem test_setter : (⟨"imm22", 0, 22, .abs22⟩ : Field).set 0x00800000 0x7123456 = 0x00923456 ∧
    (⟨"off16", 0, 16, .rel⟩ : Field).set 0xFFE00000 0x1FFFE = 0xFFE0FFFE ∧
    (⟨"off16", 0, 16, .rel⟩ : Field).set 0xFFE00001 2 = 0xFFE00003 := by decide
/-- V-E4: two fields of one row. -/
theorem test_assemble : rowBanz.assemble [5, 0x1234] = 0x000D1234 := by decide
/-- D45: CFG as the packed word. -/
theorem test_cfg_word : Cfg.c28x.word = 0b10#2 ∧ Cfg.ofWord 0b11#2 = Cfg.c2xlp ∧ Cfg.c27xObj.word = 0b00#2 := by decide

/-! ### Dispatch -/

/-- V-D2 and V-D6: no match. -/
theorem test_no_match : decodeWindow Params.default Cfg.c28x catalogGK (win 0x00 0x10 0 0) 4 =
    .error (.noMatch 0x1000 0x10000000) ∧
    decodeWindow Params.default Cfg.c28x catalogGK (win 0x10 0x3A 1 2) 4 = .error (.noMatch 0x3A10 0x3A100201) := by
  decide
/-- V-D3. -/
theorem test_decode_record : decodeWindow Params.default Cfg.c28x catalogGK (win 0xE0 0xFF 0xFE 0xFF) 4 =
    .ok ⟨28, .four, 0xFFE0FFFE, [("cond", 0), ("off16", -2)], []⟩ := by decide
/-- V-D4: length precedence. -/
theorem test_length_precedence :
    (decodeWindow Params.default Cfg.c28x
      [{ opcode := 0x12340000, mask := 0xFFFF0000, length := .four, mnemonic := "D0", cfClass := .none },
       rowNone 0x1234 "D1" .none] (win 0x34 0x12 0 0) 4) = .ok ⟨1, .two, 0x1234, [], []⟩ := by decide

/-- The catalog of V-D5. -/
def catalogModes : Catalog :=
  [{ opcode := 0xAB00, mask := 0xFF00, length := .two, mode := .mode1, mnemonic := "D0", cfClass := .none },
   { opcode := 0xAB00, mask := 0xFF00, length := .two, mnemonic := "D1", cfClass := .none }]

/-- V-D5: the mode filter, on either flag. -/
theorem test_mode_filter :
    catalogModes.valid [(0, 1)] ∧
    decodeWindow Params.default Cfg.c2xlp catalogModes (win 0 0xAB 0 0) 4 = .ok ⟨0, .two, 0xAB00, [], []⟩ ∧
    decodeWindow Params.default Cfg.c28x catalogModes (win 0 0xAB 0 0) 4 = .ok ⟨1, .two, 0xAB00, [], []⟩ ∧
    decodeWindow { Params.default with dispatchFlag := .objmode } Cfg.c28x catalogModes (win 0 0xAB 0 0) 4 =
      .ok ⟨0, .two, 0xAB00, [], []⟩ ∧
    decodeWindow { Params.default with dispatchFlag := .objmode } Cfg.c27xObj catalogModes (win 0 0xAB 0 0) 4 =
      .ok ⟨1, .two, 0xAB00, [], []⟩ := by decide
/-- V-D7, V-D9, V-D10: a location byte that does not resolve. -/
theorem test_addr_resolve :
    decodeWindow Params.default Cfg.c2xlp catalogGK (win 0xC0 0x92 0 0) 2 =
      .error (.addrResolve 0x92C0 "loc" 0xC0 true .w16) ∧
    decodeWindow Params.default Cfg.c28x catalogGK (win 0xA8 0x06 0 0) 4 =
      .error (.addrResolve 0x06A8 "loc" 0xA8 false .w32) := by decide
/-- V-D8: short windows. -/
theorem test_window_short :
    decodeWindow Params.default Cfg.c28x catalogGK (win 0 0xFF 0 0) 1 = .error (.windowShort 1 none) ∧
    decodeWindow Params.default Cfg.c28x catalogGK (win 0 0xFF 0 0) 2 = .error (.windowShort 2 (some 0xFF00)) ∧
    decodeWindow Params.default Cfg.c28x catalogGK (win 0 0x77 0 0) 2 = .ok ⟨9, .two, 0x7700, [], []⟩ ∧
    decodeWindow Params.default Cfg.c28x catalogGK (win 0xE0 0xFF 0xFE 0) 3 =
      .error (.windowShort 3 (some 0xFFE0)) := by decide

/-! ### Addressing -/

/-- V-A1, mode 0. -/
theorem test_loc_mode0 :
    [0x00, 0x3F, 0x40, 0x45, 0x7F, 0x87, 0x8F, 0x93, 0x9C].map (locLine Params.default false .w16) =
      [some "@0x0", some "@0x3f", some "*-SP[0]", some "*-SP[5]", some "*-SP[63]", some "*XAR7++", some "*--XAR7",
        some "*+XAR3[AR0]", some "*+XAR4[AR1]"] ∧
    [0xA7, 0xA8, 0xAA, 0xAB, 0xAC, 0xAD, 0xAE, 0xAF, 0xB7].map (locLine Params.default false .w16) =
      [some "@AR7", some "@AH", some "@PH", some "@PL", some "@TH", some "@SP", some "*BR0++", some "*BR0--",
        some "*,ARP7"] ∧
    [0xB8, 0xB9, 0xBA, 0xBB, 0xBC, 0xBD, 0xBE, 0xBF, 0xC7, 0xF8].map (locLine Params.default false .w16) =
      [some "*", some "*++", some "*--", some "*0++", some "*0--", some "*SP++", some "*--SP", some "*AR6%++",
        some "*+XAR7[0]", some "*+XAR0[7]"] := by decide
/-- V-A1, mode 1. -/
theorem test_loc_mode1 :
    [0x00, 0x40, 0x7F, 0xBF, 0xC0, 0xC7, 0xF8, 0xFF].map (locLine Params.default true .w16) =
      [some "@@0x0", some "@@0x40", some "@@0x7f", some "*+XAR6[AR1%++]", none, none, none, none] := by decide
/-- V-A2. -/
theorem test_loc_width32 :
    [0xA0, 0xA5, 0xA8, 0xA9, 0xAA, 0xAB, 0xAC, 0xAD, 0x80].map (locLine Params.default false .w32) =
      [some "@XAR0", some "@XAR5", none, some "@ACC", none, some "@P", some "@XT", none, some "*XAR0++"] := by decide
/-- V-A3: the six decorated forms. -/
theorem test_loc_decorated :
    [0xC8, 0xD1, 0xDB, 0xE4, 0xEB, 0xF6].map (locLine Params.default true .w16) =
      [some "*++,ARP0", some "*--,ARP1", some "*0++,ARP3", some "*0--,ARP4", some "*BR0++,ARP3", some "*BR0--,ARP6"] ∧
    [0xC8, 0xD1, 0xDB, 0xE4, 0xEB, 0xF6].map (locLine Params.default false .w16) =
      [some "*+XAR0[1]", some "*+XAR1[2]", some "*+XAR3[3]", some "*+XAR4[4]", some "*+XAR3[5]", some "*+XAR6[6]"] ∧
    [0xC8, 0xD1, 0xDB, 0xE4, 0xEB, 0xF6].map (locLine beforeCat5 false .w16) =
      [none, none, none, none, none, none] := by decide
/-- V-A3: token shapes. -/
theorem test_loc_tokens :
    (resolve Params.default true .w16 0xCA).map Loc.tokens =
      some [⟨.text, "*++"⟩, ⟨.text, ","⟩, ⟨.reg, "ARP2"⟩] ∧
    (resolve Params.default true .w16 0xF6).map Loc.tokens =
      some [⟨.text, "*"⟩, ⟨.reg, "BR0"⟩, ⟨.text, "--"⟩, ⟨.text, ","⟩, ⟨.reg, "ARP6"⟩] := by decide
/-- V-A4. -/
theorem test_loc_record :
    (resolve Params.default false .w16 0x45).map Loc.descriptor =
      some { form := .stackNeg6, reg := some .sp, offset := some 5, indirect := true } ∧
    (resolve Params.default true .w16 0xBF).map Loc.descriptor =
      some { form := .circXar6Ar1, reg := some (.xar 6), index := some .ar1, postInc := true, circular := true,
             indirect := true } ∧
    (resolve Params.default true .w16 0xEB).map Loc.descriptor =
      some { form := .arpSetBr0PostInc, ptr := some 3, indirect := true, postInc := true, bitRevBR0 := true } := by
  decide
/-- V-A5. -/
theorem test_loc_six_bits :
    [0x3F, 0x40, 0x7F].map (locLine sixBits true .w16) = [some "@@0x3f", none, none] := by decide

/-! ### Instructions: edges (V-C) and listings (V-R, section 8), one step each -/

theorem test_itrap0 : edgesBy .itrap0 State.reset 0 = some (.two, []) ∧
    lineBy .itrap0 State.reset 0 = some "ITRAP0 " := by decide
theorem test_itrap1 : edgesBy .itrap1 State.reset 0 = some (.two, []) ∧
    lineBy .itrap1 State.reset 0 = some "ITRAP1 " := by decide
theorem test_aborti : edgesBy .aborti State.reset 0 = some (.two, []) ∧
    lineBy .aborti State.reset 0 = some "ABORTI " := by decide
theorem test_lretr : edgesBy .lretr State.reset 0x104 = some (.two, [.ret]) ∧
    lineBy .lretr State.reset 0x104 = some "LRETR " := by decide
theorem test_trap : edgesBy (.trap 5) State.reset 0 = some (.two, [.trap]) ∧
    lineBy (.trap 31) State.reset 0 = some "TRAP #0x1f" := by decide
theorem test_iret : edgesBy .iret State.reset 0x40C = some (.two, [.ret]) ∧
    lineBy .iret State.reset 0x40C = some "IRET " := by decide
theorem test_lrete : edgesBy .lrete State.reset 0 = some (.two, [.ret]) ∧
    lineBy .lrete State.reset 0 = some "LRETE " := by decide
theorem test_lret : edgesBy .lret State.reset 0 = some (.two, [.ret]) ∧
    lineBy .lret State.reset 0 = some "LRET " := by decide
theorem test_lbXar7 : edgesBy .lbXar7 State.reset 0 = some (.two, [.indirectBranch]) ∧
    lineBy .lbXar7 State.reset 0 = some "LB *XAR7" := by decide
/-- V-W4, V-R1: the marker at a registered address alone, and the space parameter. -/
theorem test_nop : edgesBy .nop State.reset 0 = some (.two, []) ∧
    lineBy .nop { State.reset with rar := [0x102] } 0x102 = some "|| NOP " ∧
    lineBy .nop { State.reset with rar := [0x102] } 0x104 = some "NOP " := by decide
theorem test_nop_space : lineBy .nop
    { State.reset with params := { Params.default with spaceWhenNoOperands := false } } 0 = some "NOP" := by decide
theorem test_eint : edgesBy .eint State.reset 0 = some (.two, []) ∧
    lineBy .eint State.reset 0 = some "EINT " := by decide
theorem test_clrc : lineBy (.clrc 0x11) State.reset 0 = some "CLRC SXM, INTM" ∧
    lineBy (.clrc 0) State.reset 0 = some "CLRC " := by decide
theorem test_clrc_all : lineBy (.clrc 0xFF) State.reset 0 =
    some "CLRC SXM, OVM, TC, C, INTM, DBGM, PAGE0, VMAP" := by decide
theorem test_dint : edgesBy .dint State.reset 0 = some (.two, []) ∧
    lineBy .dint State.reset 0 = some "DINT " := by decide
theorem test_setc : edgesBy (.setc 3) State.reset 0 = some (.two, []) ∧
    lineBy (.setc 3) State.reset 0 = some "SETC SXM, OVM" := by decide
/-- V-C1, V-C3. -/
theorem test_sb : edgesBy (.sb 1 0xFD) State.reset 0x2000 = some (.two, [.taken 0x1FFD, .notTaken 0x2002]) ∧
    lineBy (.sb 1 0xFD) State.reset 0x2000 = some "SB 0x1ffd, EQ" ∧
    edgesBy (.sb 1 1) State.reset 0xFFFFFFFFFFFFFFFF = some (.two, [.taken 0, .notTaken 1]) := by decide
/-- V-C2. -/
theorem test_sb_corners :
    edgesBy (.sb 0 0x80) State.reset 0x2000 = some (.two, [.taken 0x1F80, .notTaken 0x2002]) ∧
    edgesBy (.sb 0 2) State.reset 0x2000 = some (.two, [.taken 0x2002, .notTaken 0x2002]) := by decide
/-- V-C10: the registry gains the next address, once. -/
theorem test_rptImm : lineBy (.rptImm 3) State.reset 0x100 = some "RPT #0x3" ∧
    exec (.rptImm 3) { State.reset with rar := [0x102], calls := [.classify anyRecord 0x100] } =
      .next { State.reset with rar := [0x102], returns := [.classified 0x100 .two []] } := by
  refine ⟨by decide, rfl⟩
theorem test_rptLoc : lineBy (.rptLoc 0xA9) State.reset 0x404 = some "RPT @AL" ∧
    exec (.rptLoc 0xA9) { State.reset with rar := [0x102], calls := [.classify anyRecord 0x200] } =
      .next { State.reset with rar := [0x102, 0x202], returns := [.classified 0x200 .two []] } := by
  refine ⟨by decide, rfl⟩
theorem test_movlAccLoc : edgesBy (.movlAccLoc 0x10) State.reset 0x200 = some (.two, []) ∧
    lineBy (.movlAccLoc 0x10) State.reset 0x200 = some "MOVL ACC, @0x10" ∧
    lineBy (.movlAccLoc 0x10) (callingXlp []) 0x200 = some "MOVL ACC, @@0x10" := by decide
theorem test_movAlLoc : edgesBy (.movAlLoc 0x82) State.reset 0 = some (.two, []) ∧
    lineBy (.movAlLoc 0x82) { State.reset with rar := [0x102] } 0x102 = some "MOV AL, *XAR2++" := by decide
theorem test_movAhLoc : edgesBy (.movAhLoc 0xBF) State.reset 0 = some (.two, []) ∧
    lineBy (.movAhLoc 0xBF) (callingXlp []) 0 = some "MOV AH, *+XAR6[AR1%++]" := by decide
theorem test_movLocAl : edgesBy (.movLocAl 0x82) State.reset 0 = some (.two, []) ∧
    lineBy (.movLocAl 0x82) { State.reset with rar := [0x102] } 0x102 = some "|| MOV *XAR2++, AL" := by decide
theorem test_movLocAh : edgesBy (.movLocAh 0xBD) State.reset 0 = some (.two, []) ∧
    lineBy (.movLocAh 0xBD) State.reset 0 = some "MOV *SP++, AH" := by decide
theorem test_addb : edgesBy (.addb 0xFF) State.reset 0 = some (.two, []) ∧
    lineBy (.addb 0xFF) State.reset 0 = some "ADDB ACC, #0xff" := by decide
/-- V-C6. -/
theorem test_lb : edgesBy (.lb 0x3FFFFF) State.reset 0x7FFFFF = some (.four, [.unconditional 0x3FFFFF]) ∧
    lineBy (.lb 0x3F0000) State.reset 0x206 = some "LB 0x3f0000" := by decide
theorem test_lc : edgesBy (.lc 0x123456) State.reset 0x10 = some (.four, [.call 0x123456]) ∧
    lineBy (.lc 0x123456) State.reset 0x10 = some "LC 0x123456" := by decide
theorem test_ffc : edgesBy (.ffc 0x1000) State.reset 0 = some (.four, [.call 0x1000]) ∧
    lineBy (.ffc 0x1000) State.reset 0 = some "FFC XAR7, 0x1000" := by decide
theorem test_lcr : edgesBy (.lcr 0x500) State.reset 0x400 = some (.four, [.call 0x500]) ∧
    lineBy (.lcr 0x500) State.reset 0x400 = some "LCR #0x500" := by decide
/-- V-C5, P4. -/
theorem test_banz : edgesBy (.banz 2 0xFFFC) State.reset 0x3000 = some (.four, [.taken 0x3000, .notTaken 0x3004]) ∧
    lineBy (.banz 0 0xFFF8) State.reset 0x408 = some "BANZ 0x404, AR0--" := by decide
/-- V-W2, V-C4. -/
theorem test_b : edgesBy (.b 0 0xFFFE) State.reset 0x1000 = some (.four, [.taken 0x1002, .notTaken 0x1004]) ∧
    lineBy (.b 0 0xFFFE) State.reset 0x1000 = some "B 0x1002, NEQ" ∧
    edgesBy (.b 0 0x8000) State.reset 0x1000 = some (.four, [.taken 0xFFFFFFFFFFFF9004, .notTaken 0x1004]) := by decide
theorem test_b_unc : edgesBy (.b 15 0x10) State.reset 0x1000 = some (.four, [.taken 0x1014, .notTaken 0x1004]) ∧
    edgesBy (.b 15 0x10) { State.reset with params := uncFlat } 0x1000 = some (.four, [.unconditional 0x1014]) := by
  decide
/-- V-R3. -/
theorem test_movAccImm : edgesBy (.movAccImm 3 0x1234) State.reset 0 = some (.four, []) ∧
    lineBy (.movAccImm 15 0xFFFF) State.reset 0 = some "MOV ACC, #0xffff << #15" := by decide
/-- V-R4. -/
theorem test_inLoc : edgesBy (.inLoc 0x80 0x1234) State.reset 0 = some (.four, []) ∧
    lineBy (.inLoc 0x80 0x1234) State.reset 0 = some "IN *XAR0++, *(0x1234)" := by decide
/-- V-C11. -/
theorem test_loopz :
    edgesBy (.loopz 0x82 0x1234) (callingOver catalogOpen []) 0x400 = some (.four, [.taken 0x404, .notTaken 0x400]) ∧
    edgesBy (.loopz 0x82 0x1234) (callingOver catalogOpen []) 0xFFFFFFFFFFFFFFFE =
      some (.four, [.taken 2, .notTaken 0xFFFFFFFFFFFFFFFE]) ∧
    lineBy (.loopz 0x82 0x1234) (callingOver catalogOpen []) 0x400 = some "LOOPZ *XAR2++, #0x1234" := by decide
theorem test_loopnz :
    edgesBy (.loopnz 0x82 1) (callingOver catalogOpen []) 0x400 = some (.four, [.taken 0x404, .notTaken 0x400]) ∧
    lineBy (.loopnz 0x82 1) (callingOver catalogOpen []) 0x400 = some "LOOPNZ *XAR2++, #0x1" := by decide
theorem test_rptb : lineBy (.rptb 0x35070080) (callingOver catalogOpen []) 0x100 = some "RPTB #0x7, *XAR0++" ∧
    exec (.rptb 0x35070080) (callingOver catalogOpen [.classify anyRecord 0x100]) =
      .next { callingOver catalogOpen [] with rar := [0x104], returns := [.classified 0x100 .four []] } := by
  refine ⟨by decide, rfl⟩
/-- V-C12. -/
theorem test_xbArp :
    edgesBy (.xbArp 0x3E001234) (callingOver catalogOpen []) 0 = some (.four, [.unconditional 0x3F1234]) ∧
    edgesBy (.xbArp 0x3E001234) { callingOver catalogOpen [] with params := { Params.default with xbank := 0x3E0000 } } 0 =
      some (.four, [.unconditional 0x3E1234]) := by decide
theorem test_xbCond :
    edgesBy (.xbCond 0x56D11234) (callingOver catalogOpen []) 0x10 = some (.four, [.taken 0x3F1234, .notTaken 0x14]) ∧
    lineBy (.xbCond 0x56D11234) (callingOver catalogOpen []) 0x10 = some "XB 0x3f1234, EQ" := by decide
theorem test_xcallArp :
    edgesBy (.xcallArp 0x3E011234) (callingOver catalogOpen []) 0 = some (.four, [.call 0x3F1234]) := by decide
theorem test_xretc : edgesBy (.xretc 0x56E1) (callingOver catalogOpen []) 0 = some (.two, [.ret]) ∧
    lineBy (.xretc 0x56E1) (callingOver catalogOpen []) 0 = some "XRETC EQ" := by decide
theorem test_lcXar7 : edgesBy (.lcXar7 0x7604) (callingOver catalogOpen []) 0 = some (.two, [.indirectCall]) ∧
    lineBy (.lcXar7 0x7604) (callingOver catalogOpen []) 0 = some "LC *XAR7" := by decide
theorem test_lcrXar : edgesBy (.lcrXar 0x3E65) (callingOver catalogOpen []) 0 = some (.two, [.indirectCall]) := by
  decide
theorem test_sbf :
    edgesBy (.sbf 0xEDFE) (callingOver catalogOpen []) 0x2000 = some (.two, [.taken 0x1FFE, .notTaken 0x2002]) := by
  decide
theorem test_bar :
    edgesBy (.bar 0x8F00FFFC) (callingOver catalogOpen []) 0x2000 = some (.four, [.taken 0x2000, .notTaken 0x2004]) := by
  decide
theorem test_bf :
    edgesBy (.bf 0x56CFFFFC) (callingOver catalogOpen []) 0x2000 = some (.four, [.taken 0x2000, .notTaken 0x2004]) ∧
    lineBy (.bf 0x56CFFFFC) (callingOver catalogOpen []) 0x2000 = some "BF 0x2000, UNC" := by decide
theorem test_intr : edgesBy (.intr 0x1C) (callingOver catalogOpen []) 0 = some (.two, [.trap]) ∧
    lineBy (.intr 0x1C) (callingOver catalogOpen []) 0 = some "INTR #0xc" := by decide

/-! ### Steps -/

/-- 43_render.md R180: a signed immediate, and R182, a plain address, by a row that has them. -/
theorem test_signed_and_address_kinds :
    (renderTokens Params.default
      { opcode := 0, mask := 0, length := .two, mnemonic := "M", cfClass := .none,
        fields := [⟨"i", 0, 8, .immS⟩, ⟨"j", 8, 8, .immAddr⟩], operands := [[.field "i"], [.field "j"]] }
      ⟨0, .two, 0, [("i", -2), ("j", 0xAB)], []⟩ 0 false).map listingLine = some "M #-0x2, 0xab" := by decide
/-- V-R8: an unresolved record. -/
theorem test_render_unresolved :
    step (calling [.render ⟨18, .two, 0x92C0, [("loc", 0xC0)], []⟩ 0x40]) =
      .next { calling [] with returns := [.failed 0x40 (.renderUnresolved "loc")] } := by rfl
/-- V-H4: a failed decode. -/
theorem test_failed_decode_step :
    step (callingXlp [.analyse (win 0xC0 0xF7 0 0) 4 0x500]) =
      .next { callingXlp [] with returns := [.failed 0x500 (.addrResolve 0xF7C0 "loc" 0xC0 true .w16)] } := by rfl
/-- The first step after a word is placed decodes it, and leaves the host's two calls. -/
theorem test_placed_word : step (State.reset.withFetchWord 16 0x7700) =
    .next { calling [.classify ⟨9, .two, 0x7700, [], []⟩ 0, .render ⟨9, .two, 0x7700, [], []⟩ 0] with
      returns := [.decoded 0 ⟨9, .two, 0x7700, [], []⟩] } := by rfl
/-- V-V2, V-V3: the validator. -/
theorem test_validator :
    State.create Cfg.c28x Params.default
      (catalogGK.take 10 ++ [rowClrc, rowEint] ++ catalogGK.drop 12) allowGK = .error (.catalogAmbiguous 10 11) ∧
    State.create Cfg.c28x Params.default
      [{ opcode := 0x2901, mask := 0xFF00, length := .two, mnemonic := "X", cfClass := .none }] [] =
      .error (.catalogAmbiguous 0 0) := by decide
/-- 44_catalog.md section 3: the class a named row must have. -/
theorem test_named_rows : (∀ d ∈ catalogGK ++ catalogOpen, d.namedOk = true) ∧
    Descriptor.namedOk { openSbf with relBase := some .next } = false := by decide

/-! ### Witnesses: a state and operands that meet the hypotheses of each statement -/

/-- A call of each operation that `Completes` speaks of. -/
def fourCalls (r : Decoded) (a : Nat) : List Call :=
  [.decode (win 0 0 0 0) 4 a, .analyse (win 0 0 0 0) 4 a, .classify r a, .render r a]

/-- A row of the default catalog stands at its index in a state with any call at its head. -/
theorem row_here (row : Descriptor) (k : Nat) (c : Call) (h : catalogGK[k]? = some row)
    (hf : ∀ j < k, catalogGK[j]? ≠ some row) : RowAt (calling [c]).catalog row k ∧ (calling [c]).calls = c :: [] :=
  ⟨⟨h, hf⟩, rfl⟩

theorem witness_CodecRoundTripOnClearTemplate :
    (0 + 16 ≤ 32 ∧ (⟨"off16", 0, 16, .rel⟩ : Field).get 0xFFE00000 = 0 ∧ 0xFFFE ≤ 2 ^ 16 - 1) ∧
    (rowBanz.wf = true ∧ ⟨"off16", 0, 16, .rel⟩ ∈ rowBanz.fields) ∧
    (⟨"n", 16, 3, .areg⟩ : Field).disjoint ⟨"off16", 0, 16, .rel⟩ = true ∧
    ((⟨"x", 31, 1, .immU⟩ : Field).get 0 = 0 ∧ 31 + 1 ≤ 32) := by decide
theorem witness_SignExtensionByFieldWidth : 0 < 1 ∧ 0 < 16 := by decide
theorem witness_OverlapMeansCommonValue :
    rowEint.opcode &&& ~~~ rowEint.mask = 0 ∧ rowClrc.opcode &&& ~~~ rowClrc.mask = 0 ∧
    rowEint.overlaps rowClrc = true ∧ rowNop.overlaps rowClrc = false := by decide
theorem witness_ValidatorAcceptsExactlyValidCatalogs :
    catalogGK.valid allowGK ∧ 10 < 11 ∧ catalogGK[10]? = some rowEint ∧ catalogGK[11]? = some rowClrc ∧
    rowEint.length = rowClrc.length ∧ rowEint.mode = rowClrc.mode ∧ rowEint.overlaps rowClrc = true ∧
    ¬ catalogGK.valid [] := by decide
theorem witness_DefaultCatalogIsValid :
    (10 < 11 ∧ catalogGK[10]? = some rowEint ∧ catalogGK[11]? = some rowClrc ∧ rowEint.length = rowClrc.length ∧
      (12, 13) ∈ allowGK ∧ catalogGK[12]? = some rowDint ∧ catalogGK[13]? = some rowSetc) ∧
    (rowNop ∈ catalogGK ∧ rowLcr ∈ catalogGK ∧ rowNop.length = .two ∧ rowLcr.length = .four ∧
      rowLcr.matches ((win 0x52 0x76 0x56 0x34).opcode .four) = true) := by decide
theorem witness_CreationGivesEmptyRegistryOrFails : catalogOpen.valid [] ∧ ¬ catalogGK.valid [] := by decide
/-- The first accepted row of `catalogModes` under AMODE 0 is the second one. -/
theorem witness_DispatcherTriesTwoPasses_first :
    FirstAt catalogModes (Accepted false .two 0xAB00) 1
      { opcode := 0xAB00, mask := 0xFF00, length := .two, mnemonic := "D1", cfClass := .none } := by
  refine ⟨rfl, ⟨rfl, rfl, .inl rfl⟩, fun j hj e he h => ?_⟩
  obtain rfl : j = 0 := by omega
  obtain rfl := Option.some.inj he
  rcases h.2.2 with h | h | h
  · cases h
  · cases h.1
  · cases h.2
theorem witness_DispatcherTriesTwoPasses_second :
    FirstAt [rowLcr] (Accepted false .four (win 0x52 0x76 0x56 0x34).opcode32) 0 rowLcr ∧
    ∀ e ∈ [rowLcr], ¬ Accepted false .two ((win 0x52 0x76 0x56 0x34).opcode16.setWidth 32) e := by
  refine ⟨⟨rfl, ⟨rfl, by decide, .inl rfl⟩, fun j hj => absurd hj (Nat.not_lt_zero j)⟩, fun e he h => ?_⟩
  obtain rfl := List.mem_singleton.mp he
  cases h.1
theorem witness_DispatcherTriesTwoPasses_none :
    (∀ e ∈ [rowLcr], ¬ Accepted false .two ((win 0 0 0 0).opcode16.setWidth 32) e) ∧
    (∀ e ∈ [rowLcr], ¬ Accepted false .four (win 0 0 0 0).opcode32 e) ∧ 1 < 2 ∧ 2 ≤ 3 ∧ 3 < 4 ∧ 4 ≤ 4 := by
  refine ⟨fun e he h => ?_, fun e he h => ?_, by decide⟩
  · obtain rfl := List.mem_singleton.mp he
    cases h.1
  · obtain rfl := List.mem_singleton.mp he
    exact absurd h.2.1 (by decide)
/-- A row with two fields of one name. -/
def rowTwice : Descriptor :=
  { opcode := 0, mask := 0, length := .two, mnemonic := "M", cfClass := .none,
    fields := [⟨"x", 0, 8, .immU⟩, ⟨"x", 8, 8, .loc16⟩] }
/-- 40_dispatch.md R108: the later assignment to a name is the one that stands. -/
theorem test_last_field_of_a_name_wins :
    finish Params.default Cfg.c28x 0 rowTwice 0x8042 =
      .ok ⟨0, .two, 0x8042, [("x", 0x80)], [("x", .xarPostInc 0)]⟩ := by decide
theorem witness_FinishExtractsEveryField :
    finish Params.default Cfg.c28x 30 rowInLoc 0xB4801234 =
      .ok ⟨30, .four, 0xB4801234, [("loc", 0x80), ("pa", 0x1234)], [("loc", .xarPostInc 0)]⟩ ∧
    rowInLoc.objSensitive = false ∧ LastNamed rowInLoc.fields ⟨"pa", 0, 16, .immMmio⟩ ∧
    rowInLoc.fields = [] ++ ⟨"loc", 16, 8, .loc16⟩ :: [⟨"pa", 0, 16, .immMmio⟩] ∧
    IsLoc ⟨"loc", 16, 8, .loc16⟩ .w16 ∧
    finish Params.default Cfg.c28x 17 rowMovlAccLoc 0x06A8 = .error (.addrResolve 0x06A8 "loc" 0xA8 false .w32) :=
  ⟨by decide, rfl, ⟨[_], [], rfl, by simp⟩, rfl, .inl ⟨rfl, rfl⟩, by decide⟩
theorem witness_FinishExtractsEveryField_objSensitive :
    finish Params.default Cfg.c28x 4 { rowTrap with objSensitive := true } 0x25 =
      .ok ⟨4, .two, 0x25,
        [("n", Config.objEffect { rowTrap with objSensitive := true } true [("n", 5)] "n")], []⟩ := by rfl
theorem witness_MatchingPropertyOfValidCatalogs :
    catalogGK.valid allowGK ∧ catalogGK[11]? = some rowClrc ∧ rowClrc.matches 0x2910 = true ∧
    rowClrc.mode.accepts (activeMode Params.default Cfg.c28x) = true := by decide
/-- The two outcomes of 40_dispatch.md R113: the specialization EINT, and a location byte that does not resolve. -/
theorem witness_MatchingPropertyOfValidCatalogs_outcomes :
    decodeWindow Params.default Cfg.c28x catalogGK (Window.ofBytes (bytesOf 0x2910 .two)) 4 =
      .ok ⟨10, .two, 0x2910, [], []⟩ ∧
    decodeWindow Params.default Cfg.c28x catalogGK (Window.ofBytes (bytesOf 0x06A8 .two)) 4 =
      .error (.addrResolve 0x06A8 "loc" 0xA8 false .w32) := by decide
theorem witness_DecodeReadsOnlyTheBytesItNeeds :
    decodeWindow Params.default Cfg.c28x catalogGK (win 0 0x77 1 2) 5 = .ok ⟨9, .two, 0x7700, [], []⟩ := by decide
theorem witness_DecodeOfEncodeIsTheInstruction :
    Instr.wellFormed Params.default Cfg.c2xlp.amode (.inLoc 0xEB 0xFFFF) = true ∧
    Instr.wellFormed Params.default Cfg.c28x.amode (.clrc 0x11) = true := by decide
theorem witness_EncodeOfDecodeIsTheBytesRead :
    decodeWindow Params.default Cfg.c28x catalogGK (win 0x10 0x29 1 2) 2 = .ok ⟨10, .two, 0x2910, [], []⟩ ∧
    decodeWindow Params.default Cfg.c28x catalogGK (win 0x7F 0 0xFF 0xFF) 4 =
      .ok ⟨23, .four, 0x007FFFFF, [("imm22", 0x3FFFFF)], []⟩ := by decide
theorem witness_ResolverFormsByPattern :
    Params.default.directMode1Bits = .seven ∧ sixBits.directMode1Bits = .six ∧
    Params.default.arpDecorPriority = .afterCat5 ∧ beforeCat5.arpDecorPriority = .beforeCat5 := by decide
theorem witness_ResolverModeDependence :
    Params.default.arpDecorPriority = .afterCat5 ∧ Params.default.directMode1Bits = .seven := by decide
theorem witness_ResolveCallAnswers :
    (calling [.resolve 0xC0 .w16]).calls = .resolve 0xC0 .w16 :: [] ∧
    resolve Params.default false .w16 0xC0 = some (.xarOff3 0 0) ∧
    (callingXlp [.resolve 0xC0 .w16]).calls = .resolve 0xC0 .w16 :: [] ∧
    resolve Params.default true .w16 0xC0 = none := by decide

theorem witness_RowsWithoutFieldsComplete : ∀ c ∈ fourCalls anyRecord 0x100,
    (RowAt (calling [c]).catalog rowLret 7 ∧ (calling [c]).calls = c :: []) ∧
    (RowAt (calling [c]).catalog rowDint 12 ∧ (calling [c]).calls = c :: []) :=
  fun c _ => ⟨row_here _ _ c rfl (by decide), row_here _ _ c rfl (by decide)⟩
theorem witness_NopCompletes : ∀ c ∈ fourCalls anyRecord 0x102,
    RowAt (calling [c]).catalog rowNop 9 ∧ (calling [c]).calls = c :: [] :=
  fun c _ => row_here _ _ c rfl (by decide)
theorem witness_ImmediateAndFlagRowsComplete : ∀ c ∈ fourCalls anyRecord 0x100,
    RowAt (calling [c]).catalog rowTrap 4 ∧ RowAt (calling [c]).catalog rowLbXar7 8 ∧
    RowAt (calling [c]).catalog rowClrc 11 ∧ RowAt (calling [c]).catalog rowSetc 13 ∧
    RowAt (calling [c]).catalog rowAddb 22 ∧ RowAt (calling [c]).catalog rowMovAccImm 29 :=
  fun c _ => ⟨(row_here _ _ c rfl (by decide)).1, (row_here _ _ c rfl (by decide)).1, (row_here _ _ c rfl (by decide)).1,
    (row_here _ _ c rfl (by decide)).1, (row_here _ _ c rfl (by decide)).1, (row_here _ _ c rfl (by decide)).1⟩
theorem witness_PcRelativeRowsComplete : ∀ c ∈ fourCalls anyRecord 0xFFFFFFFFFFFFFFFF,
    RowAt (calling [c]).catalog rowSb 14 ∧ RowAt (calling [c]).catalog rowBanz 27 ∧
    RowAt (calling [c]).catalog rowB 28 :=
  fun c _ => ⟨(row_here _ _ c rfl (by decide)).1, (row_here _ _ c rfl (by decide)).1, (row_here _ _ c rfl (by decide)).1⟩
theorem witness_AbsoluteRowsComplete : ∀ c ∈ fourCalls anyRecord 0x400,
    RowAt (calling [c]).catalog rowLb 23 ∧ RowAt (calling [c]).catalog rowLc 24 ∧
    RowAt (calling [c]).catalog rowFfc 25 ∧ RowAt (calling [c]).catalog rowLcr 26 :=
  fun c _ => ⟨(row_here _ _ c rfl (by decide)).1, (row_here _ _ c rfl (by decide)).1,
    (row_here _ _ c rfl (by decide)).1, (row_here _ _ c rfl (by decide)).1⟩
theorem witness_RepeatRowsComplete : ∀ c ∈ fourCalls anyRecord 0x100,
    RowAt (calling [c]).catalog rowRptImm 15 ∧ RowAt (calling [c]).catalog rowRptLoc 16 ∧
    resolve (calling [c]).params (calling [c]).cfg.amode .w16 0xA9 = some (.reg16 .al) :=
  fun c _ => ⟨(row_here _ _ c rfl (by decide)).1, (row_here _ _ c rfl (by decide)).1, rfl⟩
theorem witness_LocationRowsComplete : ∀ c ∈ fourCalls anyRecord 0x200,
    (RowAt (calling [c]).catalog rowMovlAccLoc 17 ∧
      resolve (calling [c]).params (calling [c]).cfg.amode .w32 0x82 = some (.xarPostInc 2)) ∧
    (RowAt (calling [c]).catalog rowMovAlLoc 18 ∧ RowAt (calling [c]).catalog rowMovAhLoc 19 ∧
      RowAt (calling [c]).catalog rowMovLocAl 20 ∧ RowAt (calling [c]).catalog rowMovLocAh 21 ∧
      RowAt (calling [c]).catalog rowInLoc 30 ∧
      resolve (calling [c]).params (calling [c]).cfg.amode .w16 0x82 = some (.xarPostInc 2)) :=
  fun c _ => ⟨⟨(row_here _ _ c rfl (by decide)).1, rfl⟩, (row_here _ _ c rfl (by decide)).1, (row_here _ _ c rfl (by decide)).1,
    (row_here _ _ c rfl (by decide)).1, (row_here _ _ c rfl (by decide)).1, (row_here _ _ c rfl (by decide)).1, rfl⟩
theorem witness_UnresolvedLocationFailsDecode :
    (RowAt (callingXlp [.decode (win 0xC0 0x92 0 0) 4 0]).catalog rowMovAlLoc 18 ∧
      resolve Params.default true .w16 0xC0 = none) ∧
    (RowAt (calling [.analyse (win 0xA8 0x06 0 0) 4 0]).catalog rowMovlAccLoc 17 ∧
      resolve Params.default false .w32 0xA8 = none) :=
  ⟨⟨⟨rfl, by decide⟩, rfl⟩, ⟨rfl, by decide⟩, rfl⟩
theorem witness_LoopWaitRowsComplete : ∀ c ∈ fourCalls anyRecord 0x400,
    LoopAt (callingOver [openLoopz, openLoopnz] [c]).catalog "LOOPZ" 0 openLoopz ∧ openLoopz.wf = true ∧
    openLoopz.objSensitive = false ∧ openLoopz.repeatable = false ∧
    LoopAt (callingOver [openLoopnz] [c]).catalog "LOOPNZ" 0 openLoopnz ∧ openLoopnz.wf = true ∧
    resolve Params.default false .w16 0x82 = some (.xarPostInc 2) :=
  fun c _ => ⟨⟨rfl, ⟨rfl, rfl, rfl, rfl, rfl⟩, fun j hj => absurd hj (Nat.not_lt_zero j)⟩, by decide, rfl, rfl,
    ⟨rfl, ⟨rfl, rfl, rfl, rfl, rfl⟩, fun j hj => absurd hj (Nat.not_lt_zero j)⟩, by decide, rfl⟩
/-- The first row of a catalog is the first that has its own mnemonic and class. -/
theorem witness_named (d : Descriptor) (rest : Catalog) : NamedAt (d :: rest) d.mnemonic d.cfClass 0 d :=
  ⟨rfl, ⟨rfl, rfl⟩, fun j hj => absurd hj (Nat.not_lt_zero j)⟩
theorem witness_OpenRowsWithoutTargetComplete :
    (NamedAt [openRptb] "RPTB" .repeated 0 openRptb ∧ openRptb.operandsOk = true ∧
      ∃ r, finish Params.default Cfg.c28x 0 openRptb 0x35070080 = .ok r) ∧
    (NamedAt [openXretc] "XRETC" .ret 0 openXretc ∧ openXretc.operandsOk = true ∧
      ∃ r, finish Params.default Cfg.c28x 0 openXretc 0x56E1 = .ok r) ∧
    (NamedAt [openLcXar7] "LC" .indCall 0 openLcXar7 ∧ NamedAt [openLcrXar] "LCR" .indCall 0 openLcrXar ∧
      openLcXar7.operandsOk = true ∧ openLcrXar.operandsOk = true ∧
      (∃ r, finish Params.default Cfg.c28x 0 openLcXar7 0x7604 = .ok r) ∧
      ∃ r, finish Params.default Cfg.c28x 0 openLcrXar 0x3E65 = .ok r) ∧
    (NamedAt [openIntr] "INTR" .trap 0 openIntr ∧ openIntr.operandsOk = true ∧
      ∃ r, finish Params.default Cfg.c28x 0 openIntr 0x1C = .ok r) :=
  ⟨⟨witness_named _ _, by decide, _, rfl⟩, ⟨witness_named _ _, by decide, _, rfl⟩,
    ⟨witness_named _ _, witness_named _ _, by decide, by decide, ⟨_, rfl⟩, _, rfl⟩, witness_named _ _, by decide, _, rfl⟩
theorem witness_ExtendedBankRowsComplete :
    (NamedAt [openXbArp] "XB" .jumpXbank 0 openXbArp ∧ openXbArp.operandsOk = true ∧
      finish Params.default Cfg.c28x 0 openXbArp 0x3E001234 = .ok ⟨0, .four, 0x3E001234, [("pma", 0x1234)], []⟩ ∧
      valueOfKind openXbArp [("pma", 0x1234)] .pma16 = some 0x1234) ∧
    (NamedAt [openXbCond] "XB" .condXbank 0 openXbCond ∧ openXbCond.operandsOk = true ∧
      finish Params.default Cfg.c28x 0 openXbCond 0x56DF1234 =
        .ok ⟨0, .four, 0x56DF1234, [("cond", 15), ("pma", 0x1234)], []⟩ ∧
      valueOfKind openXbCond [("cond", 15), ("pma", 0x1234)] .pma16 = some 0x1234) ∧
    (NamedAt [openXcall] "XCALL" .callXbank 0 openXcall ∧ openXcall.operandsOk = true ∧
      finish Params.default Cfg.c28x 0 openXcall 0x3E011234 = .ok ⟨0, .four, 0x3E011234, [("pma", 0x1234)], []⟩ ∧
      valueOfKind openXcall [("pma", 0x1234)] .pma16 = some 0x1234) :=
  ⟨⟨witness_named _ _, by decide, by decide, by decide⟩, ⟨witness_named _ _, by decide, by decide, by decide⟩,
    witness_named _ _, by decide, by decide, by decide⟩
theorem witness_OpenRelativeRowsComplete :
    (NamedRelAt [openSbf] "SBF" .current 0 openSbf ∧ openSbf.operandsOk = true ∧
      finish Params.default Cfg.c28x 0 openSbf 0xEDFE = .ok ⟨0, .two, 0xEDFE, [("cond", 1), ("off8", -2)], []⟩ ∧
      valueOfKind openSbf [("cond", 1), ("off8", -2)] .rel = some (-2)) ∧
    (NamedRelAt [openBar] "BAR" .next 0 openBar ∧ openBar.operandsOk = true ∧
      finish Params.default Cfg.c28x 0 openBar 0x8F00FFFC = .ok ⟨0, .four, 0x8F00FFFC, [("off16", -4)], []⟩ ∧
      valueOfKind openBar [("off16", -4)] .rel = some (-4)) ∧
    (NamedRelAt [openBf] "BF" .next 0 openBf ∧ openBf.operandsOk = true ∧
      finish Params.default Cfg.c28x 0 openBf 0x56CFFFFC =
        .ok ⟨0, .four, 0x56CFFFFC, [("cond", 15), ("off16", -4)], []⟩ ∧
      valueOfKind openBf [("cond", 15), ("off16", -4)] .rel = some (-4)) :=
  ⟨⟨⟨rfl, ⟨rfl, rfl, rfl⟩, fun j hj => absurd hj (Nat.not_lt_zero j)⟩, by decide, by decide, by decide⟩,
    ⟨⟨rfl, ⟨rfl, rfl, rfl⟩, fun j hj => absurd hj (Nat.not_lt_zero j)⟩, by decide, by decide, by decide⟩,
    ⟨rfl, ⟨rfl, rfl, rfl⟩, fun j hj => absurd hj (Nat.not_lt_zero j)⟩, by decide, by decide, by decide⟩
theorem witness_InstructionWithoutRowIsRefused :
    (∀ d ∈ (callingOver [rowNop] []).catalog, Instr.selects .eint d = false) ∧ State.reset.catalog = catalogGK := by
  decide
theorem witness_StepRunsTheDecodedInstruction :
    decodeInstr Params.default Cfg.c28x catalogGK (win 0x25 0 0 0) 4 = .ok (some (.trap 5)) ∧
    identify Params.default Cfg.c28x catalogGK ⟨4, .two, 0x25, [("n", 5)], []⟩ = some (.trap 5) ∧
    (calling [.decode (win 0x25 0 0 0) 4 0]).calls = [.decode (win 0x25 0 0 0) 4 0] := by decide
theorem witness_MeaningsRefineTheGenericEngine :
    headRecord (calling [.decode (win 0x25 0 0 0) 4 0]) = some (.ok ⟨4, .two, 0x25, [("n", 5)], []⟩) ∧
    headRecord (calling [.analyse (win 0 0x10 0 0) 4 0]) = some (.error (.noMatch 0x1000 0x10000000)) ∧
    headRecord (calling [.render anyRecord 0]) = some (.ok anyRecord) := ⟨rfl, rfl, rfl⟩
theorem witness_EngineIdlesWithoutCall : State.reset.calls = [] := rfl
/-- A good state with an unresolved record and a decode pending. -/
theorem witness_GoodStatesNeverStop :
    (calling [.render ⟨18, .two, 0x92C0, [("loc", 0xC0)], []⟩ 0x40, .analyse (win 0 0 0 0) 1 0]).Good :=
  ⟨by decide, by decide, by decide, by decide⟩
/-- A step that classifies a repeat row: the next state of the step statements. -/
theorem witness_step :
    RarWf Params.default [0x50] ∧
    step { calling [.classify ⟨15, .two, 0xF603, [("imm8", 3)], []⟩ 0x100] with rar := [0x50] } =
      .next { calling [] with rar := [0x50, 0x102], returns := [.classified 0x100 .two []] } ∧
    (calling [.classify ⟨15, .two, 0xF603, [("imm8", 3)], []⟩ 0x100]).calls =
      .classify ⟨15, .two, 0xF603, [("imm8", 3)], []⟩ 0x100 :: [] ∧
    catalogGK[15]? = some rowRptImm ∧ rowRptImm.cfClass = .repeated := ⟨by decide, rfl, rfl, rfl, rfl⟩
/-- A run: the same step as a run of one, for the statements about runs. -/
theorem witness_run :
    core.run 1 (calling [.classify ⟨15, .two, 0xF603, [("imm8", 3)], []⟩ 0x100]) =
      .next { calling [] with rar := [0x102], returns := [.classified 0x100 .two []] } := by rfl
/-- A successful analyse, the other clause of `EachCallReturnsOneValue`. -/
theorem witness_EachCallReturnsOneValue :
    step (calling [.analyse (win 0x25 0 0 0) 2 0]) =
      .next { calling [.classify ⟨4, .two, 0x25, [("n", 5)], []⟩ 0, .render ⟨4, .two, 0x25, [("n", 5)], []⟩ 0] with
        returns := [.decoded 0 ⟨4, .two, 0x25, [("n", 5)], []⟩] } := by rfl
theorem witness_EachCallReturnsOneValue_other :
    step (calling [.decode (win 0x25 0 0 0) 2 0, .resolve 0xC0 .w16]) =
      .next { calling [.resolve 0xC0 .w16] with
        returns := [.decoded 0 ⟨4, .two, 0x25, [("n", 5)], []⟩] } := by rfl
theorem witness_FailedDecodeChangesNothing :
    (calling [.decode (win 0 0x10 0 0) 4 0]).calls = .decode (win 0 0x10 0 0) 4 0 :: [] ∧
    (calling [.analyse (win 0 0x10 0 0) 4 0]).calls = .analyse (win 0 0x10 0 0) 4 0 :: [] ∧
    decodeWindow Params.default Cfg.c28x catalogGK (win 0 0x10 0 0) 4 = .error (.noMatch 0x1000 0x10000000) := by decide
/-- A row and a record with the field of its class, for every class. -/
theorem witness_ClassifyReturnsTheClassEdges :
    ((catalogGK ++ catalogOpen).map (fun d => d.cfClass)).eraseDups.length = 13 ∧
    valueOfKind rowLb [("imm22", 5)] .abs22 = some 5 ∧ valueOfKind rowLc [("imm22", 5)] .abs22 = some 5 ∧
    valueOfKind openXbArp [("pma", 5)] .pma16 = some 5 ∧ valueOfKind openXcall [("pma", 5)] .pma16 = some 5 ∧
    valueOfKind openXbCond [("cond", 15), ("pma", 5)] .pma16 = some 5 ∧
    (valueOfKind rowSb [("cond", 15), ("off8", -5)] .rel = some (-5) ∧ rowSb.relBase = some .current) ∧
    (valueOfKind rowB [("cond", 15), ("off16", -5)] .rel = some (-5) ∧ rowB.relBase = some .next) := by decide
theorem witness_CallClassesReturnOneCallEdge :
    step (calling [.classify ⟨26, .four, 0x76523456, [("imm22", 0x123456)], []⟩ 0]) =
      .next { calling [] with returns := [.classified 0 .four [.call 0x123456]] } ∧
    catalogGK[26]? = some rowLcr ∧ rowLcr.cfClass = .callAbs ∧
    step (callingOver catalogOpen [.classify ⟨7, .two, 0x7604, [], []⟩ 0]) =
      .next { callingOver catalogOpen [] with returns := [.classified 0 .two [.indirectCall]] } := ⟨rfl, rfl, rfl, rfl⟩
theorem witness_EdgeSetsAreCanonical :
    step (calling [.classify ⟨14, .two, 0x61FD, [("cond", 1), ("off8", -3)], []⟩ 0x2000]) =
      .next { calling [] with returns := [.classified 0x2000 .two [.taken 0x1FFD, .notTaken 0x2002]] } := by rfl
theorem witness_MarkerExactlyAtRegisteredRepeatable :
    step { calling [.render ⟨9, .two, 0x7700, [], []⟩ 0x102] with rar := [0x102] } =
      .next { calling [] with rar := [0x102], returns := [.rendered 0x102 .two
        [⟨.marker, "||"⟩, ⟨.text, " "⟩, ⟨.mnemonic, "NOP"⟩, ⟨.text, " "⟩]] } ∧
    step { calling [.render ⟨9, .two, 0x7700, [], []⟩ 0x104] with rar := [0x102] } =
      .next { calling [] with rar := [0x102], returns := [.rendered 0x104 .two
        [⟨.mnemonic, "NOP"⟩, ⟨.text, " "⟩]] } ∧ rowNop.repeatable = true := ⟨rfl, rfl, rfl⟩
theorem witness_UnresolvedRecordFailsRender :
    catalogGK[18]? = some rowMovAlLoc ∧ rowMovAlLoc.fields = [] ++ fieldLoc8 .loc16 :: [] ∧
    (fieldLoc8 .loc16).kind = .loc16 ∧
    lookupField (Decoded.addr ⟨18, .two, 0x92C0, [("loc", 0xC0)], []⟩) (fieldLoc8 .loc16).name = none ∧
    decodeWindow Params.default Cfg.c28x catalogGK (win 0x80 0x92 0 0) 2 =
      .ok ⟨18, .two, 0x9280, [("loc", 0x80)], [("loc", .xarPostInc 0)]⟩ := by decide
theorem witness_RepeatMarkerFollowsOrderOfCalls :
    catalogGK[15]? = some rowRptImm ∧ rowRptImm.cfClass = .repeated ∧ catalogGK[9]? = some rowNop ∧
    rowNop.repeatable = true ∧ unresolvedField rowNop ⟨9, .two, 0x7700, [], []⟩ = none ∧
    renderTokens Params.default rowNop ⟨9, .two, 0x7700, [], []⟩ 0x102 false =
      some [⟨.mnemonic, "NOP"⟩, ⟨.text, " "⟩] ∧ 0x102 ∉ State.reset.rar := by decide
theorem witness_RegistrySeenOnlyThroughRenderMarker :
    (0x102 ∈ [0x102, 0x200] ↔ 0x102 ∈ [0x102]) ∧
    step { calling [.render ⟨0, .two, 0, [], []⟩ 0x102] with rar := [0x102] } =
      .next { calling [] with rar := [0x102], returns := [.rendered 0x102 .two
        [⟨.mnemonic, "ITRAP0"⟩, ⟨.text, " "⟩]] } := ⟨by decide, rfl⟩
theorem witness_ObjmodeInvisibleOverDefaultCatalog :
    (calling [.decode (win 0x25 0 0 0) 2 0]).catalog = catalogGK ∧
    step (calling [.decode (win 0x25 0 0 0) 2 0]) =
      .next { calling [] with returns := [.decoded 0 ⟨4, .two, 0x25, [("n", 5)], []⟩] } := ⟨rfl, rfl⟩
/-- 60_exceptions.md R251. -/
theorem test_failure_codes :
    [Failure.noMatch 0 0, .addrResolve 0 "loc" 0 false .w16, .windowShort 0 none, .renderUnresolved "loc",
      .catalogAmbiguous 0 0].map Failure.code = [1, 2, 3, 4, 5] := by decide
theorem witness_NumberTextsHaveNoLeadingZeros : 0 < 1 ∧ hex 0x3F0000 = "0x3f0000" ∧ dec 63 = "63" := by decide
theorem witness_FlagListInAscendingBitOrder :
    flagNames[2]? = some "TC" ∧ (modeFlags 0x0C)[0]? = some "TC" ∧ 0 + 1 < (modeFlags 0x0C).length := by decide

theorem witness_FormsHaveTheListedRecordsAndTokens :
    Params.default.directMode1Bits = .seven ∧ sixBits.directMode1Bits = .six ∧
    Params.default.arpDecorPriority = .afterCat5 := by decide
/-- A row with a signed and a plain address immediate in one operand each, and a shift expression. -/
def rowKinds : Descriptor :=
  { opcode := 0, mask := 0, length := .four, mnemonic := "M", cfClass := .none,
    fields := [⟨"i", 0, 8, .immS⟩, ⟨"j", 8, 8, .immAddr⟩, ⟨"s", 16, 4, .shift⟩],
    operands := [[.field "i", .field "s"], [.field "j"]] }
theorem witness_RenderReturnsTheStream :
    let r : Decoded := ⟨0, .four, 0, [("i", -2), ("j", 0xAB), ("s", 3)], []⟩
    let s := { calling [.render r 0x100] with catalog := [rowKinds] }
    s.calls = .render r 0x100 :: [] ∧ s.catalog[r.desc]? = some rowKinds ∧
    (∀ f ∈ rowKinds.fields, ∀ w, IsLoc f w → lookupField r.addr f.name ≠ none) ∧
    List.Forall₂ (List.Forall₂ (PartShows s rowKinds r (lines s 0x100))) rowKinds.operands
      [[[⟨.intS, "#-0x2"⟩], [⟨.text, " << "⟩, ⟨.intU, "#3"⟩]], [[⟨.addr, "0xab"⟩]]] := by
  refine ⟨rfl, rfl, by simp [rowKinds, IsLoc], .cons (.cons ?_ (.cons ?_ .nil)) (.cons (.cons ?_ .nil) .nil)⟩
  · exact ⟨⟨"i", 0, 8, .immS⟩, -2, ⟨[], _, rfl, by simp⟩, rfl, rfl, .inr ⟨by decide, by decide⟩⟩
  · exact ⟨⟨"s", 16, 4, .shift⟩, 3, ⟨[_, _], _, rfl, by simp⟩, rfl, rfl, by decide, by decide⟩
  · exact ⟨⟨"j", 8, 8, .immAddr⟩, 0xAB, ⟨[_], _, rfl, by simp⟩, rfl, rfl, by decide, by decide⟩

end Sys2Proof.Tests
end

