-- ==== Sys2Proof/Proofs/Scope.lean ====
section
/-! SUPPORT. Sys2Proof/Proofs/Scope.lean: sign extension (00_scope.md R13) as the integer of a bit vector, and address
addition (R14) as a residue. -/

namespace Sys2Proof

/-! ### Sign extension -/

/-- Only the field's own bits are read (00_scope.md R13). -/
theorem sext_mod_two_pow (n v : Nat) : sext n (v % 2 ^ n) = sext n v := by
  simp only [sext, Nat.mod_mod]

/-- The two's-complement reading of the field's own bits (00_scope.md R13). -/
theorem sext_eq_toInt_ofNat {n : Nat} (hn : 0 < n) (v : Nat) : sext n v = (BitVec.ofNat n v).toInt := by
  rw [← sext_mod_two_pow, ← BitVec.toNat_ofNat, sext_toNat n _ hn]

/-- The sign bit is the field's own most significant bit (30_encoding.md R75). -/
theorem msb_ofNat_eq_testBit {n : Nat} (hn : 0 < n) (v : Nat) : (BitVec.ofNat n v).msb = v.testBit (n - 1) := by
  rw [BitVec.msb_eq_getLsbD_last, BitVec.getLsbD_ofNat]
  simp [hn]

theorem neg_two_pow_le_sext {n : Nat} (hn : 0 < n) (v : Nat) : -(2 ^ (n - 1) : Int) ≤ sext n v := by
  rw [sext_eq_toInt_ofNat hn]
  exact BitVec.le_toInt _

theorem sext_lt_two_pow {n : Nat} (hn : 0 < n) (v : Nat) : sext n v < 2 ^ (n - 1) := by
  rw [sext_eq_toInt_ofNat hn]
  exact BitVec.toInt_lt

/-- The low bits, less `2^N` where the sign bit is set: the defining formula of 00_scope.md R13. -/
theorem sext_eq_mod_sub_signBit {n : Nat} (hn : 0 < n) (v : Nat) :
    sext n v = (v % 2 ^ n : Nat) - (if v.testBit (n - 1) then (2 ^ n : Int) else 0) := by
  rw [sext_eq_toInt_ofNat hn, BitVec.toInt_eq_msb_cond, msb_ofNat_eq_testBit hn, BitVec.toNat_ofNat]
  split
  · push_cast; rfl
  · exact (sub_zero _).symm

/-- Settles O5: `sext_N` is the integer of the N-bit vector of the low bits, whose range and formula the library has. -/
theorem signExtensionByFieldWidth : Obligations.SignExtensionByFieldWidth :=
  fun _ v hn => ⟨neg_two_pow_le_sext hn v, sext_lt_two_pow hn v, sext_eq_mod_sub_signBit hn v⟩

/-! ### Address addition -/

/-- The sum's residue, as an integer: nothing is lost where `addrAdd` goes back to `Nat` (00_scope.md R14). -/
theorem addrAdd_cast (p : Params) (a : Nat) (d : Int) :
    (p.addrAdd a d : Int) = (a + d) % 2 ^ p.addrWidth := by
  have hpos : (0 : Int) < 2 ^ p.addrWidth := by positivity
  rw [Params.addrAdd, Nat.cast_pow, Nat.cast_ofNat]
  exact Int.toNat_of_nonneg (Int.emod_nonneg _ hpos.ne')

/-- Settles O2: the multiple is the quotient of the sum, taken away. -/
theorem addrAddIsModular : Obligations.AddrAddIsModular := by
  intro p a d
  refine ⟨Machine.addrAdd_lt p a d, -((a + d) / 2 ^ p.addrWidth), ?_⟩
  rw [addrAdd_cast, Int.emod_def]
  ring

end Sys2Proof
end

