-- ==== Sys2Proof/Proofs/State.lean ====
section
/-! SUPPORT. Sys2Proof/Proofs/State.lean: one step as the shared serving of the head's record, what it leaves as it was,
the runs it makes, and the addressing descriptor record (10_state.md). -/

namespace Sys2Proof.Machine

/-! ### A step serves the record of the head -/

/-- A call without a record is a resolve call; with no call there is none either. -/
theorem calls_of_headRecord_none {s : State} (h : headRecord s = none) :
    s.calls = [] ∨ ∃ b w rest, s.calls = .resolve b w :: rest := by
  unfold headRecord at h
  cases hc : s.calls with
  | nil => exact .inl rfl
  | cons c rest =>
    cases c with
    | resolve b w => exact .inr ⟨b, w, rest, rfl⟩
    | _ => simp [hc] at h

/-- Where the head has no record, the record handed to `serve` plays no part. -/
theorem serve_of_headRecord_none {s : State} (r : Except Failure Decoded) (h : headRecord s = none) :
    serve r s = serveOther s := by
  obtain hc | ⟨b, w, rest, hc⟩ := calls_of_headRecord_none h <;> simp [serve, hc]

/-- The meaning of the instruction a record is serves that very record (10_state.md R26). -/
theorem exec_of_identify {s : State} {r : Decoded} {i : Instr}
    (h : identify s.params s.cfg s.catalog r = some i) : exec i s = serve (.ok r) s := by
  obtain ⟨k, d, hrow, hfin⟩ := identify_eq_some _ _ _ _ _ h
  rw [exec_eq_serveRow, serveRow, hrow]
  exact congrArg (serve · s) hfin

/-- A table instruction's meaning is met only through `identify`, whose record it serves. -/
theorem step_of_headRecord {s : State} {r : Except Failure Decoded} (hr : headRecord s = some r) :
    step s = serve r s := by
  cases r with
  | error f => simp [step, hr]
  | ok q =>
    cases hi : identify s.params s.cfg s.catalog q with
    | none => simp [step, hr, hi]
    | some i => simpa [step, hr, hi] using exec_of_identify hi

/-- Settles O38, by the one place where a step meets a meaning. -/
theorem meaningsRefineTheGenericEngine : Obligations.MeaningsRefineTheGenericEngine :=
  fun _ _ => step_of_headRecord

/-- The step as one call of `serve`, for heads with and without a record. -/
theorem step_eq_serve {s : State} {r : Except Failure Decoded} (hr : ∀ q, headRecord s = some q → q = r) :
    step s = serve r s := by
  cases hq : headRecord s with
  | none => rw [serve_of_headRecord_none r hq, step, hq]
  | some q => rw [← hr q hq, step_of_headRecord hq]

/-- `serve_next` has a converse: `Served` is exactly what serving answers. -/
theorem serve_eq_next_iff (r : Except Failure Decoded) (s t : State) : serve r s = .next t ↔ Served r s t := by
  refine ⟨serve_next r s t, fun h => ?_⟩
  cases h with
  | idle h => simp [serve, serveOther, h]
  | resolved b w rest h => simp [serve, serveOther, h]
  | failed c rest a f h ha hr =>
    cases c <;> cases ha <;> simp [serve, h, hr]
  | decoded w n a rest q h hr => simp [serve, h, hr, answerDecode]
  | analysed w n a rest q h hr => simp [serve, h, hr, answerAnalyse]
  | classified q' a rest q d es h hr hd he => simp [serve, h, hr, answerClassify, hd, he]
  | unresolved q' a rest q d f h hr hd hu => simp [serve, h, hr, answerRender, hd, hu]
  | rendered q' a rest q d ts h hr hd hu ht => simp [serve, h, hr, answerRender, hd, hu, ht]

/-- The one inversion lemma of `step`: `r` is the head's record where it has one. -/
theorem step_next {s t : State} (h : step s = .next t) :
    ∃ r, (∀ q, headRecord s = some q → q = r) ∧ Served r s t := by
  cases hq : headRecord s with
  | none =>
    have hr : ∀ q, headRecord s = some q → q = .error (.windowShort 0 none) := by simp [hq]
    exact ⟨_, by simp, serve_next _ s t (step_eq_serve hr ▸ h)⟩
  | some q => exact ⟨q, by simp, serve_next q s t (step_of_headRecord hq ▸ h)⟩

/-! ### What a step leaves as it was -/

/-- Flags, catalog and parameters have no writer (10_state.md R23, R25). -/
theorem step_config {s t : State} (h : step s = .next t) :
    t.cfg = s.cfg ∧ t.catalog = s.catalog ∧ t.params = s.params := by
  obtain ⟨r, -, hs⟩ := step_next h
  cases hs <;> simp

/-- The registry is left or takes one insert, of an address on the lines (10_state.md R27, R28). -/
theorem step_rar {s t : State} (h : step s = .next t) :
    t.rar = s.rar ∨ ∃ a < 2 ^ s.params.addrWidth, t.rar = rarInsert a s.rar := by
  obtain ⟨r, -, hs⟩ := step_next h
  cases hs with
  | classified q' a rest q d es =>
    rw [answer_rar, noteRepeat_eq]
    by_cases hd : d.cfClass = .repeated
    · exact .inr ⟨nextAddr s.params d (s.params.addr a), addrAdd_lt _ _ _, by simp [hd]⟩
    · exact .inl (by simp [hd])
  | _ => exact .inl rfl

/-- Settles O42: the one address a step can insert is an `addr_add`, and an insert keeps the canonical form. -/
theorem stepKeepsRegistryForm : Obligations.StepKeepsRegistryForm := by
  intro s t hwf h
  obtain ⟨-, -, hp⟩ := step_config h
  rw [hp]
  obtain hr | ⟨a, ha, hr⟩ := step_rar h
  · rwa [hr]
  · rw [hr]
    exact rarInsert_wf s.params a s.rar ha hwf

theorem step_rar_subset {s t : State} (h : step s = .next t) : ∀ x ∈ s.rar, x ∈ t.rar := by
  intro x hx
  obtain hr | ⟨a, -, hr⟩ := step_rar h
  · rwa [hr]
  · rw [hr]
    exact (mem_rarInsert a x s.rar).mpr (.inr hx)

/-! ### Runs -/

theorem run_succ_eq_next {k : Nat} {s t : State} (h : core.run (k + 1) s = .next t) :
    ∃ u, step s = .next u ∧ core.run k u = .next t := by
  simp only [Host.Core.run] at h
  split at h
  · rename_i u hu
    exact ⟨u, hu, h⟩
  · cases h
  · cases h

/-- A reflexive and transitive relation that holds across every step holds across every run. -/
theorem run_induction {R : State → State → Prop} (refl : ∀ s, R s s)
    (trans : ∀ s u t, R s u → R u t → R s t) (hstep : ∀ s u, step s = .next u → R s u) (k : Nat) (s t : State)
    (h : core.run k s = .next t) : R s t := by
  induction k generalizing s with
  | zero =>
    obtain rfl : s = t := Host.Outcome.next.inj h
    exact refl s
  | succ k ih =>
    obtain ⟨u, hu, hk⟩ := run_succ_eq_next h
    exact trans s u t (hstep s u hu) (ih u hk)

/-- Settles O43, by the step's frame. -/
theorem configurationIsNeverWritten : Obligations.ConfigurationIsNeverWritten := by
  refine run_induction (R := fun s t => t.cfg = s.cfg ∧ t.catalog = s.catalog ∧ t.params = s.params)
    (fun s => ⟨rfl, rfl, rfl⟩) ?_ (fun s u => step_config)
  rintro s u t ⟨hc, hcat, hp⟩ ⟨hc', hcat', hp'⟩
  exact ⟨hc'.trans hc, hcat'.trans hcat, hp'.trans hp⟩

/-- Settles O44, by the step's one insert. -/
theorem registryIsAppendOnly : Obligations.RegistryIsAppendOnly :=
  run_induction (R := fun s t => ∀ x ∈ s.rar, x ∈ t.rar) (fun _ _ hx => hx)
    (fun _ _ _ hsu hut x hx => hut x (hsu x hx)) (fun _ _ => step_rar_subset)

/-! ### OBJMODE -/

/-- Serving reads the configuration word through `AMODE` alone. -/
theorem Served.withCfg {r : Except Failure Decoded} {s t : State} (h : Served r s t) (c : Cfg)
    (hc : c.amode = s.cfg.amode) : Served r { s with cfg := c } { t with cfg := c } := by
  cases h with
  | idle h => exact .idle h
  | resolved b w rest h =>
    rw [← hc]
    exact .resolved b w rest h
  | failed call rest a f h ha hr => exact .failed call rest a f h ha hr
  | decoded w n a rest q h hr => exact .decoded w n a rest q h hr
  | analysed w n a rest q h hr => exact .analysed w n a rest q h hr
  | classified q' a rest q d es h hr hd he =>
    have hs := Served.classified (s := { s with cfg := c }) q' a rest q d es h hr hd he
    rw [noteRepeat_eq] at hs ⊢
    exact hs
  | unresolved q' a rest q d f h hr hd hu => exact .unresolved q' a rest q d f h hr hd hu
  | rendered q' a rest q d ts h hr hd hu ht => exact .rendered q' a rest q d ts h hr hd hu ht

end Sys2Proof.Machine

namespace Sys2Proof

/-- Two tests that agree on the rows of a catalog find the same row. -/
theorem findRow_congr {sel sel' : Descriptor → Bool} {cat : Catalog} (h : ∀ d ∈ cat, sel d = sel' d) (n : Nat) :
    findRow sel cat n = findRow sel' cat n := by
  induction cat generalizing n with
  | nil => rfl
  | cons d rest ih =>
    simp only [findRow, h d List.mem_cons_self, ih (fun e he => h e (List.mem_cons_of_mem _ he))]

/-- A row whose mode is Any and that is not object-sensitive: `OBJMODE` has no way into it (10_state.md R21). -/
def Descriptor.ObjmodeFree (d : Descriptor) : Prop := d.mode = .any ∧ d.objSensitive = false

theorem selected_of_objmodeFree {d : Descriptor} (h : d.ObjmodeFree) (m m' : Bool) (len : Len) (op : Op32) :
    d.selected m len op = d.selected m' len op := by
  simp [Descriptor.selected, h.1, CompatMode.accepts]

theorem pass_congr_cfg {cat : Catalog} (hcat : ∀ d ∈ cat, d.ObjmodeFree) (p : Params) (c c' : Cfg) (len : Len)
    (op : Op32) : pass p c cat len op = pass p c' cat len op :=
  findRow_congr (fun d hd => selected_of_objmodeFree (hcat d hd) _ _ len op) 0

/-- Location bytes are resolved under `AMODE` alone. -/
theorem extractLocs_congr_cfg {c c' : Cfg} (hc : c.amode = c'.amode) (p : Params) (op : Op32) (fs : List Field) :
    extractLocs p c op fs = extractLocs p c' op fs := by
  induction fs with
  | nil => rfl
  | cons f rest ih => simp only [extractLocs, extractField, hc, ih]

theorem finish_congr_cfg {d : Descriptor} (hd : d.ObjmodeFree) {c c' : Cfg} (hc : c.amode = c'.amode) (p : Params)
    (i : Nat) (op : Op32) : finish p c i d op = finish p c' i d op := by
  simp [finish, extractLocs_congr_cfg hc, applyObj, hd.2]

/-- Over such a catalog decode does not see `OBJMODE`, under either `DISPATCH_MODE_FLAG`. -/
theorem decodeWindow_congr_cfg {cat : Catalog} (hcat : ∀ d ∈ cat, d.ObjmodeFree) {c c' : Cfg}
    (hc : c.amode = c'.amode) (p : Params) (w : Window) (n : Nat) :
    decodeWindow p c cat w n = decodeWindow p c' cat w n := by
  have hfin : ∀ {len op i d}, pass p c' cat len op = some (i, d) → finish p c i d op = finish p c' i d op := by
    intro len op i d hp
    obtain ⟨hd, -, -⟩ := (findRow_eq_some _ _ _ _).mp hp
    exact finish_congr_cfg (hcat d (List.mem_of_getElem? hd)) hc p i op
  unfold decodeWindow
  simp only [pass_congr_cfg hcat p c c']
  cases h16 : pass p c' cat .two (w.opcode .two) with
  | some id => simp only [hfin h16]
  | none =>
    cases h32 : pass p c' cat .four (w.opcode .four) with
    | some id => simp only [hfin h32]
    | none => rfl

/-- Every row of the default catalog is such a row (44_catalog.md). -/
theorem catalogGK_objmodeFree : ∀ d ∈ catalogGK, d.ObjmodeFree := by
  unfold Descriptor.ObjmodeFree
  decide

end Sys2Proof

namespace Sys2Proof.Machine

theorem headRecord_withCfg {s : State} (hcat : ∀ d ∈ s.catalog, d.ObjmodeFree) (c : Cfg)
    (hc : c.amode = s.cfg.amode) : headRecord { s with cfg := c } = headRecord s := by
  simp only [headRecord, decodeWindow_congr_cfg hcat hc]

/-- Settles O55: neither the record of the head nor its serving sees `OBJMODE`. -/
theorem objmodeInvisibleOverDefaultCatalog : Obligations.ObjmodeInvisibleOverDefaultCatalog := by
  intro s t o hcat h
  obtain ⟨r, hr, hs⟩ := step_next h
  have hfree : ∀ d ∈ s.catalog, d.ObjmodeFree := hcat ▸ catalogGK_objmodeFree
  have hhead := headRecord_withCfg hfree ⟨o, s.cfg.amode⟩ rfl
  rw [step_eq_serve (hhead.symm ▸ hr), serve_eq_next_iff]
  exact hs.withCfg ⟨o, s.cfg.amode⟩ rfl

/-! ### Creation -/

/-- A valid catalog creates an engine with these flags and parameters, and an empty registry (10_state.md R39). -/
theorem create_of_valid {cat : Catalog} {allow : List (Nat × Nat)} (h : cat.valid allow) (c : Cfg) (p : Params) :
    State.create c p cat allow =
      .ok { cfg := c, catalog := cat, rar := [], params := p, calls := [], returns := [] } := by
  rw [State.create, h]

theorem catalogGK_valid : catalogGK.valid allowGK := by decide

/-- Settles O11, by the creation over a valid catalog. -/
theorem resetIsCreatedInstance : Obligations.ResetIsCreatedInstance :=
  ⟨create_of_valid catalogGK_valid Cfg.c28x Params.default, rfl, rfl, rfl, rfl, rfl, rfl, rfl⟩

end Sys2Proof.Machine

namespace Sys2Proof

/-! ### The addressing descriptor record -/

/-- The number of the XARn register of a record (10_state.md R31). -/
def AddressingDescriptor.xar (d : AddressingDescriptor) : BitVec 3 :=
  match d.reg with
  | some (.xar n) => n
  | _ => 0

/-- The pointer of a record, as its three bits. -/
def AddressingDescriptor.ptrBits (d : AddressingDescriptor) : BitVec 3 := BitVec.ofNat 3 (d.ptr.getD 0)

/-- The offset of a record, as bits. -/
def AddressingDescriptor.offsetBits (d : AddressingDescriptor) (w : Nat) : BitVec w := BitVec.ofNat w (d.offset.getD 0)

/-- The form that a record describes: `form` names the constructor, and its operands stand in `reg`, `ptr` and
`offset` (10_state.md R34). -/
def AddressingDescriptor.loc (d : AddressingDescriptor) : Loc :=
  match d.form with
  | .directDp6 => .directDp6 (d.offsetBits 6)
  | .directDp7 => .directDp7 (d.offsetBits 7)
  | .stackNeg6 => .stackNeg6 (d.offsetBits 6)
  | .spPostInc => .spPostInc
  | .spPreDec => .spPreDec
  | .xarPostInc => .xarPostInc d.xar
  | .xarPreDec => .xarPreDec d.xar
  | .xarIdxAr0 => .xarIdxAr0 d.xar
  | .xarIdxAr1 => .xarIdxAr1 d.xar
  | .xarOff3 => .xarOff3 d.xar (d.offsetBits 3)
  | .arpInd => .arpInd
  | .arpPostInc => .arpPostInc
  | .arpPostDec => .arpPostDec
  | .arpPostIncAr0 => .arpPostIncAr0
  | .arpPostDecAr0 => .arpPostDecAr0
  | .arpBr0PostInc => .arpBr0PostInc
  | .arpBr0PostDec => .arpBr0PostDec
  | .arpSet => .arpSet d.ptrBits
  | .arpSetPostInc => .arpSetPostInc d.ptrBits
  | .arpSetPostDec => .arpSetPostDec d.ptrBits
  | .arpSetPostIncAr0 => .arpSetPostIncAr0 d.ptrBits
  | .arpSetPostDecAr0 => .arpSetPostDecAr0 d.ptrBits
  | .arpSetBr0PostInc => .arpSetBr0PostInc d.ptrBits
  | .arpSetBr0PostDec => .arpSetBr0PostDec d.ptrBits
  | .circAr6 => .circAr6
  | .circXar6Ar1 => .circXar6Ar1
  | .reg16 => .reg16 (d.reg.getD .sp)
  | .reg32 => .reg32 (d.reg.getD .sp)

/-- No operand of a form is lost in its record. -/
theorem loc_descriptor (l : Loc) : l.descriptor.loc = l := by
  cases l <;> simp [Loc.descriptor, AddressingDescriptor.loc, AddressingDescriptor.xar,
    AddressingDescriptor.ptrBits, AddressingDescriptor.offsetBits]

theorem descriptor_preInc (l : Loc) : l.descriptor.preInc = false := by
  cases l <;> rfl

theorem descriptor_indirect_iff (l : Loc) :
    l.descriptor.indirect = false ↔
      l.descriptor.form = .directDp6 ∨ l.descriptor.form = .directDp7 ∨
      l.descriptor.form = .reg16 ∨ l.descriptor.form = .reg32 := by
  cases l <;> simp [Loc.descriptor]

theorem descriptor_circular_iff (l : Loc) :
    l.descriptor.circular = true ↔ l.descriptor.form = .circAr6 ∨ l.descriptor.form = .circXar6Ar1 := by
  cases l <;> simp [Loc.descriptor]

/-- Settles O22: the record has a left inverse, and its flags are read off form by form. -/
theorem addressingDescriptorIdentifiesForm : Obligations.AddressingDescriptorIdentifiesForm :=
  ⟨fun _ _ h => Function.LeftInverse.injective loc_descriptor h,
    fun l => ⟨descriptor_preInc l, descriptor_indirect_iff l, descriptor_circular_iff l⟩⟩

end Sys2Proof
end

/-! SUPPORT. Sys2Proof/Proofs/Memory.lean: the opcode values of a window, what decode reads of it, the one reply of a
step, and what of the registry a reply can see (20_memory.md). -/

namespace Sys2Proof

/-! ### Byte order -/

/-- A concatenation as a number: the left part stands above the bits of the right one. -/
theorem toNat_append_eq_mul_add {m n : Nat} (x : BitVec m) (y : BitVec n) :
    (x ++ y).toNat = x.toNat * 2 ^ n + y.toNat := by
  rw [BitVec.toNat_append, ← Nat.shiftLeft_add_eq_or_of_lt y.isLt, Nat.shiftLeft_eq]

theorem opcode16_toNat (w : Window) : w.opcode16.toNat = w.w1.toNat * 2 ^ 8 + w.w0.toNat :=
  toNat_append_eq_mul_add w.w1 w.w0

theorem opcode32_toNat (w : Window) :
    w.opcode32.toNat = w.w1.toNat * 2 ^ 24 + w.w0.toNat * 2 ^ 16 + w.w3.toNat * 2 ^ 8 + w.w2.toNat := by
  rw [Window.opcode32]
  simp only [toNat_append_eq_mul_add]
  ring

/-- Settles O1: a composition is a sum of shifted bytes, and the high half is the law of the byte layout. -/
theorem opcodeWordsFromWindowBytes : Obligations.OpcodeWordsFromWindowBytes :=
  fun w => ⟨opcode16_toNat w, opcode32_toNat w, (opcode16_eq_high w).symm⟩

/-! ### What decode reads of a window -/

/-- A 2-byte match ends the decode, whatever the count says beyond two (20_memory.md R50, 40_dispatch.md R104). -/
theorem decodeWindow_of_pass_two {p : Params} {c : Cfg} {cat : Catalog} {w : Window} {i : Nat} {d : Descriptor}
    (h : pass p c cat .two (w.opcode .two) = some (i, d)) {n : Nat} (hn : 2 ≤ n) :
    decodeWindow p c cat w n = finish p c i d (w.opcode .two) := by
  rw [decodeWindow, if_neg (by omega), h]

/-- Counts from four on pass both tests of the count (20_memory.md R45). -/
theorem decodeWindow_congr_count (p : Params) (c : Cfg) (cat : Catalog) (w : Window) {m n : Nat} (hm : 4 ≤ m)
    (hn : 4 ≤ n) : decodeWindow p c cat w m = decodeWindow p c cat w n := by
  simp only [decodeWindow, show ¬ m < 2 by omega, show ¬ n < 2 by omega, show ¬ m < 4 by omega,
    show ¬ n < 4 by omega, if_false]

/-- Settles O15: a 2-byte record is the finish of the first pass, whose opcode value has only the first two bytes. -/
theorem decodeReadsOnlyTheBytesItNeeds : Obligations.DecodeReadsOnlyTheBytesItNeeds := by
  refine fun p c cat w n => ⟨fun hn => decodeWindow_congr_count p c cat w hn le_rfl, ?_⟩
  intro r hr hlen w2 w3 m hm
  obtain ⟨d, hpass, hfin⟩ := decodeWindow_eq_ok p c cat w n r hr
  rw [hlen] at hpass hfin
  have hop : (⟨w.w0, w.w1, w2, w3⟩ : Window).opcode .two = w.opcode .two := rfl
  rw [decodeWindow_of_pass_two (hop ▸ hpass) hm, hop, hfin]

end Sys2Proof

namespace Sys2Proof.Machine

/-! ### One reply for one call -/

/-- Settles O46: every way to serve a call is one answer, and only a successful analyse has calls follow it. -/
theorem eachCallReturnsOneValue : Obligations.EachCallReturnsOneValue := by
  intro s t c rest hc h
  obtain ⟨r, -, hs⟩ := step_next h
  cases hs with
  | idle hc' => cases hc.symm.trans hc'
  | analysed w n a rest' q hc' hr =>
    cases hc.symm.trans hc'
    exact ⟨_, rfl, by simp [hc]⟩
  | failed c' rest' a f hc' ha hr =>
    exact ⟨_, rfl, by cases c <;> simp [hc]⟩
  | classified q' a rest' q d es hc' hr hd he =>
    cases hc.symm.trans hc'
    exact ⟨_, by rw [answer_returns, noteRepeat_returns], by simp [hc]⟩
  | resolved b w rest' hc' | decoded w n a rest' q hc' hr | unresolved q' a rest' q d f hc' hr hd hu
  | rendered q' a rest' q d ts hc' hr hd hu ht =>
    cases hc.symm.trans hc'
    exact ⟨_, rfl, by simp [hc]⟩

/-! ### What a reply sees of the registry -/

/-- The record a call is about comes from the call, the catalog and the configuration. -/
theorem headRecord_withRar (s : State) (ρ : List Nat) : headRecord { s with rar := ρ } = headRecord s := rfl

theorem rarContains_congr {ρ ρ' : List Nat} {a : Nat} (h : a ∈ ρ ↔ a ∈ ρ') : rarContains ρ a = rarContains ρ' a := by
  rw [Bool.eq_iff_iff, rarContains_iff, rarContains_iff, h]

/-- Serving under another registry leads to the same state but for the registry, if the two answer the one question a
render asks (20_memory.md R61). -/
theorem Served.withRar {r : Except Failure Decoded} {s t : State} (h : Served r s t) {ρ : List Nat}
    (hρ : ∀ q a rest, s.calls = .render q a :: rest → (s.params.addr a ∈ ρ ↔ s.params.addr a ∈ s.rar)) :
    ∃ ρ', Served r { s with rar := ρ } { t with rar := ρ' } := by
  cases h with
  | idle hc => exact ⟨ρ, .idle hc⟩
  | resolved b w rest hc => exact ⟨ρ, .resolved b w rest hc⟩
  | failed c rest a f hc ha hr => exact ⟨ρ, .failed c rest a f hc ha hr⟩
  | decoded w n a rest q hc hr => exact ⟨ρ, .decoded w n a rest q hc hr⟩
  | analysed w n a rest q hc hr => exact ⟨ρ, .analysed w n a rest q hc hr⟩
  | classified q' a rest q d es hc hr hd he =>
    have hs := Served.classified (s := { s with rar := ρ }) q' a rest q d es hc hr hd he
    rw [noteRepeat_eq] at hs ⊢
    exact ⟨_, hs⟩
  | unresolved q' a rest q d f hc hr hd hu => exact ⟨ρ, .unresolved q' a rest q d f hc hr hd hu⟩
  | rendered q' a rest q d ts hc hr hd hu ht =>
    rw [← rarContains_congr (hρ q' a rest hc)] at ht
    exact ⟨ρ, .rendered q' a rest q d ts hc hr hd hu ht⟩

/-- Settles O54: the head's record does not see the registry, and its serving sees one answer of it. -/
theorem registrySeenOnlyThroughRenderMarker : Obligations.RegistrySeenOnlyThroughRenderMarker := by
  intro s t ρ hρ h
  obtain ⟨r, hr, hs⟩ := step_next h
  obtain ⟨ρ', hs'⟩ := hs.withRar hρ
  refine ⟨{ t with rar := ρ' }, ?_, rfl, rfl⟩
  rw [step_eq_serve (headRecord_withRar s ρ ▸ hr), serve_eq_next_iff]
  exact hs'

end Sys2Proof.Machine

/-! SUPPORT. Sys2Proof/Proofs/Encoding.lean: the operand codec, the match and the validator bit by bit, and the round trip
of the encoder through the dispatcher (30_encoding.md). -/

namespace Sys2Proof

/-! ### The operand codec -/

/-- The setter works on the value modulo `2^width` (30_encoding.md R74). -/
theorem set_eq_set_mod (f : Field) (t : Op32) (v : Nat) : f.set t v = f.set t (v % 2 ^ f.width) := by
  simp only [Field.set, Nat.and_two_pow_sub_one_eq_mod, Nat.mod_mod]

/-- Settles O4: the setter's mask is the remainder. -/
theorem setterTruncates : Obligations.SetterTruncates := set_eq_set_mod

/-- The setter as the disjunction with a bit vector of the field's width (30_encoding.md R72). -/
theorem set_eq_or (f : Field) (t : Op32) (v : Nat) :
    f.set t v = t ||| (BitVec.ofNat f.width v).setWidth 32 <<< f.lo := by
  rw [Field.set, Nat.and_two_pow_sub_one_eq_mod, ← BitVec.toNat_ofNat, ofNat_shiftLeft_toNat]

/-- The round trip on a template with the field clear (30_encoding.md R73). -/
theorem get_set_self {f : Field} {t : Op32} (v : Nat) (hf : f.lo + f.width ≤ 32) (ht : f.get t = 0) :
    f.get (f.set t v) = v % 2 ^ f.width := by
  rw [set_eq_or, get_or_self f t _ hf ht, BitVec.toNat_ofNat]

/-- Setting a second field leaves the first (30_encoding.md R73). -/
theorem get_set_disjoint {f g : Field} (t : Op32) (v : Nat)
    (h : f.lo + f.width ≤ g.lo ∨ g.lo + g.width ≤ f.lo) : f.get (g.set t v) = f.get t := by
  rw [set_eq_or, get_or_other f t _ _ _ h]

theorem testBit_get (f : Field) (op : Op32) (i : Nat) :
    (f.get op).testBit i = (op.getLsbD (f.lo + i) && decide (i < f.width)) := by
  simp [Field.get, BitVec.getLsbD, Bool.and_comm]

/-- The bits of a field inside the word are the positions of the field (30_encoding.md R68). -/
theorem getLsbD_bits {f : Field} {i : Nat} (hi : i < f.width) (hf : f.lo + f.width ≤ 32) :
    f.bits.getLsbD (f.lo + i) = true := by
  simp [Field.bits, BitVec.getLsbD_ofNat, show f.lo + i < 32 by omega, hi]

/-! ### Rows bit by bit -/

/-- No bit of `o` lies outside `m` (30_encoding.md R66). -/
theorem and_not_eq_zero_iff (o m : Op32) :
    o &&& ~~~ m = 0 ↔ ∀ i, o.getLsbD i = true → m.getLsbD i = true := by
  constructor
  · intro h i ho
    have hi : i < 32 := BitVec.lt_of_getLsbD ho
    have hbit := congrArg (fun x => BitVec.getLsbD x i) h
    simpa [hi, ho] using hbit
  · intro h
    apply BitVec.eq_of_getLsbD_eq
    intro i hi
    simpa [hi] using h i

/-- A bit outside the mask is no bit of the opcode. -/
theorem getLsbD_eq_false_of_mask {o m : Op32} (h : o &&& ~~~ m = 0) {i : Nat} (hm : m.getLsbD i = false) :
    o.getLsbD i = false := by
  rw [and_not_eq_zero_iff] at h
  by_contra ho
  simp [h i (Bool.eq_true_of_not_eq_false ho)] at hm

theorem and_eq_zero_iff (x y : Op32) : x &&& y = 0 ↔ ∀ i, x.getLsbD i = true → y.getLsbD i = false := by
  constructor
  · intro h i hx
    have hbit := congrArg (fun x => BitVec.getLsbD x i) h
    simpa [hx] using hbit
  · intro h
    apply BitVec.eq_of_getLsbD_eq
    intro i hi
    simpa using h i

/-- The structural match, bit by bit (40_dispatch.md R102). -/
theorem matches_iff_bits (d : Descriptor) (op : Op32) :
    d.matches op = true ↔ ∀ i, (op.getLsbD i && d.mask.getLsbD i) = d.opcode.getLsbD i := by
  rw [Descriptor.matches, decide_eq_true_iff]
  constructor
  · intro h i
    rw [← h, BitVec.getLsbD_and]
  · intro h
    exact BitVec.eq_of_getLsbD_eq fun i _ => (BitVec.getLsbD_and).trans (h i)

/-- The overlap test: the opcodes agree wherever both masks look (30_encoding.md R70). -/
theorem overlaps_iff_bits (d e : Descriptor) :
    d.overlaps e = true ↔
      ∀ i, d.mask.getLsbD i = true → e.mask.getLsbD i = true → d.opcode.getLsbD i = e.opcode.getLsbD i := by
  rw [Descriptor.overlaps, decide_eq_true_iff, BitVec.and_assoc, and_eq_zero_iff]
  refine forall_congr' fun i => ?_
  rw [BitVec.getLsbD_xor, BitVec.getLsbD_and]
  cases d.opcode.getLsbD i <;> cases e.opcode.getLsbD i <;> simp

theorem specializes_iff_bits (d e : Descriptor) :
    d.specializes e = true ↔
      d.overlaps e = true ∧ ∀ i, e.mask.getLsbD i = true → d.mask.getLsbD i = true := by
  rw [Descriptor.specializes, Bool.and_eq_true, decide_eq_true_iff, and_not_eq_zero_iff]

/-- An opcode under its own mask matches its row. -/
theorem matches_opcode {d : Descriptor} (h : d.opcode &&& ~~~ d.mask = 0) : d.matches d.opcode = true := by
  rw [and_not_eq_zero_iff] at h
  rw [matches_iff_bits]
  intro i
  cases ho : d.opcode.getLsbD i with
  | false => rfl
  | true => exact h i ho

/-- Two rows that match one value overlap. -/
theorem overlaps_of_matches {d e : Descriptor} {op : Op32} (hd : d.matches op = true) (he : e.matches op = true) :
    d.overlaps e = true := by
  rw [matches_iff_bits] at hd he
  rw [overlaps_iff_bits]
  intro i hdm hem
  rw [← hd i, ← he i, hdm, hem]

/-- The disjunction of two overlapping opcodes matches the first row. -/
theorem matches_or_of_overlaps {d e : Descriptor} (hd : d.opcode &&& ~~~ d.mask = 0)
    (he : e.opcode &&& ~~~ e.mask = 0) (h : d.overlaps e = true) : d.matches (d.opcode ||| e.opcode) = true := by
  rw [overlaps_iff_bits] at h
  rw [matches_iff_bits]
  intro i
  rw [BitVec.getLsbD_or]
  cases hm : d.mask.getLsbD i with
  | false => simp [getLsbD_eq_false_of_mask hd hm]
  | true =>
    cases ho : e.opcode.getLsbD i with
    | false => simp
    | true => simp [h i hm ((and_not_eq_zero_iff _ _).mp he i ho), ho]

theorem overlaps_comm (d e : Descriptor) : d.overlaps e = e.overlaps d := by
  rw [Bool.eq_iff_iff, overlaps_iff_bits, overlaps_iff_bits]
  exact forall_congr' fun i => ⟨fun h he hd => (h hd he).symm, fun h hd he => (h he hd).symm⟩

/-- The overlap test says that some value satisfies both matches (30_encoding.md R70). -/
theorem overlaps_iff {d e : Descriptor} (hd : d.opcode &&& ~~~ d.mask = 0) (he : e.opcode &&& ~~~ e.mask = 0) :
    d.overlaps e = true ↔ ∃ op, d.matches op = true ∧ e.matches op = true := by
  refine ⟨fun h => ⟨d.opcode ||| e.opcode, matches_or_of_overlaps hd he h, ?_⟩,
    fun ⟨_, hdm, hem⟩ => overlaps_of_matches hdm hem⟩
  rw [BitVec.or_comm]
  exact matches_or_of_overlaps he hd (overlaps_comm d e ▸ h)

/-- A bit outside the mask plays no part in the match. -/
theorem matches_xor_twoPow {d : Descriptor} {op : Op32} {i : Nat} (h : d.matches op = true)
    (hi : d.mask.getLsbD i = false) : d.matches (op ^^^ BitVec.twoPow 32 i) = true := by
  rw [matches_iff_bits] at h ⊢
  intro j
  rw [← h j, BitVec.getLsbD_xor, BitVec.getLsbD_twoPow]
  by_cases hij : i = j
  · subst hij
    simp [hi]
  · simp [hij]

/-- A specialization matches only what the more general row matches. -/
theorem matches_of_specializes {d e : Descriptor} (he : e.opcode &&& ~~~ e.mask = 0)
    (h : d.specializes e = true) {op : Op32} (hop : d.matches op = true) : e.matches op = true := by
  obtain ⟨hov, hmask⟩ := (specializes_iff_bits d e).mp h
  rw [overlaps_iff_bits] at hov
  rw [matches_iff_bits] at hop ⊢
  intro i
  cases hem : e.mask.getLsbD i with
  | false => simp [getLsbD_eq_false_of_mask he hem]
  | true => rw [← hov i (hmask i hem) hem, ← hop i, hmask i hem]

/-- A row that matches only what another matches looks at every bit the other looks at: flipping a bit it does not look
at would leave the other's match. -/
theorem specializes_of_forall_matches {d e : Descriptor} (hd : d.opcode &&& ~~~ d.mask = 0)
    (h : ∀ op, d.matches op = true → e.matches op = true) : d.specializes e = true := by
  have hself := matches_opcode hd
  refine (specializes_iff_bits d e).mpr ⟨overlaps_of_matches hself (h _ hself), fun i hem => ?_⟩
  by_contra hdm
  have hi : i < 32 := BitVec.lt_of_getLsbD hem
  have hflip := h _ (matches_xor_twoPow hself (Bool.eq_false_iff.mpr hdm))
  have h1 := (matches_iff_bits e _).mp (h _ hself) i
  have h2 := (matches_iff_bits e _).mp hflip i
  rw [← h1, BitVec.getLsbD_xor, BitVec.getLsbD_twoPow, hem] at h2
  simp [hi] at h2

/-- Settles O7: the common value is the disjunction of the two opcodes, and the value that tells two masks apart is the
earlier opcode with one bit flipped. -/
theorem overlapMeansCommonValue : Obligations.OverlapMeansCommonValue :=
  fun _ _ hd he => ⟨overlaps_iff hd he,
    fun h _ hop => matches_of_specializes he h hop, specializes_of_forall_matches hd⟩

/-! ### Well-formed rows -/

theorem field_le_of_wf {d : Descriptor} (h : d.wf = true) {f : Field} (hf : f ∈ d.fields) : f.lo + f.width ≤ 32 := by
  obtain ⟨-, -, hfields, -⟩ := (wf_iff d).mp h
  exact (hfields f hf).2.trans (by cases d.length <;> decide)

/-- A row's opcode has every field of the row clear (30_encoding.md R68, R73). -/
theorem get_opcode_of_wf {d : Descriptor} (h : d.wf = true) {f : Field} (hf : f ∈ d.fields) :
    f.get d.opcode = 0 := by
  obtain ⟨hopcode, -, hfields, -⟩ := (wf_iff d).mp h
  obtain ⟨hmask, -⟩ := hfields f hf
  rw [and_eq_zero_iff] at hmask
  apply Nat.eq_of_testBit_eq
  intro i
  rw [testBit_get, Nat.zero_testBit]
  by_cases hi : i < f.width
  · have hclear : d.opcode.getLsbD (f.lo + i) = false :=
      getLsbD_eq_false_of_mask hopcode (hmask _ (getLsbD_bits hi (field_le_of_wf h hf)))
    rw [hclear, Bool.false_and]
  · simp [hi]

/-- Settles O3: the setter is a disjunction with the field's bits, which are clear in the template. -/
theorem codecRoundTripOnClearTemplate : Obligations.CodecRoundTripOnClearTemplate := by
  refine ⟨fun f t v hf ht => ?_, fun f t v hf ht hv => ?_, fun d hd f hf => get_opcode_of_wf hd hf,
    fun f g t v h => get_set_disjoint t v (by simpa [Field.disjoint] using h)⟩
  · rw [get_set_self v hf ht, Nat.and_two_pow_sub_one_eq_mod]
  · have hpos : 0 < 2 ^ f.width := Nat.two_pow_pos f.width
    rw [get_set_self v hf ht, Nat.mod_eq_of_lt (by omega)]

/-! ### The validator -/

/-- Two rows in this order are no bad pair: if they overlap for one length and compatible modes, the earlier is an
allow-listed specialization (30_encoding.md R69). -/
theorem pairOk_iff (allow : List (Nat × Nat)) (i j : Nat) (d e : Descriptor) :
    pairOk allow i d j e = true ↔
      (d.length = e.length → (d.mode = e.mode ∨ d.mode = .any ∨ e.mode = .any) → d.overlaps e = true →
        d.specializes e = true ∧ (i, j) ∈ allow) := by
  rw [pairOk, Bool.or_eq_true, Bool.not_eq_true', ← Bool.not_eq_true, ← imp_iff_not_or]
  simp only [CompatMode.compatible, Bool.and_eq_true, Bool.or_eq_true, decide_eq_true_iff, or_assoc, and_imp]

theorem firstBadAfter_eq_none_iff (allow : List (Nat × Nat)) (i : Nat) (d : Descriptor) (j : Nat) (cat : Catalog) :
    firstBadAfter allow i d j cat = none ↔ ∀ n e, cat[n]? = some e → pairOk allow i d (j + n) e = true := by
  induction cat generalizing j with
  | nil => simp [firstBadAfter]
  | cons x rest ih =>
    rw [← Nat.and_forall_add_one]
    by_cases hx : pairOk allow i d j x = true
    · simp [firstBadAfter, hx, ih, Nat.add_right_comm j _ 1, ← Nat.add_assoc]
    · simp [firstBadAfter, hx]

theorem firstBad_cons_eq_none_iff (allow : List (Nat × Nat)) (i : Nat) (d : Descriptor) (cat : Catalog) :
    firstBad allow i (d :: cat) = none ↔
      d.wf = true ∧ firstBadAfter allow i d (i + 1) cat = none ∧ firstBad allow (i + 1) cat = none := by
  rw [firstBad]
  split
  next hwf => cases firstBadAfter allow i d (i + 1) cat <;> simp [hwf]
  next hwf => simp [hwf]

/-- The validator from index `i` on finds nothing exactly when every row is well formed and no pair is bad. -/
theorem firstBad_eq_none_iff (allow : List (Nat × Nat)) (i : Nat) (cat : Catalog) :
    firstBad allow i cat = none ↔
      (∀ d ∈ cat, d.wf = true) ∧
      ∀ m n d e, m < n → cat[m]? = some d → cat[n]? = some e → pairOk allow (i + m) d (i + n) e = true := by
  induction cat generalizing i with
  | nil => simp [firstBad]
  | cons x rest ih =>
    rw [firstBad_cons_eq_none_iff, firstBadAfter_eq_none_iff, ih]
    constructor
    · rintro ⟨hx, hafter, hrest, hpairs⟩
      refine ⟨List.forall_mem_cons.mpr ⟨hx, hrest⟩, fun m n d e hmn hd he => ?_⟩
      obtain ⟨n, rfl⟩ : ∃ k, n = k + 1 := ⟨n - 1, by omega⟩
      cases m with
      | zero =>
        obtain rfl : x = d := by simpa using hd
        simpa [Nat.add_assoc, Nat.add_comm 1] using hafter n e (by simpa using he)
      | succ m =>
        simpa [Nat.add_assoc, Nat.add_comm 1] using
          hpairs m n d e (by omega) (by simpa using hd) (by simpa using he)
    · rintro ⟨hwf, hpairs⟩
      obtain ⟨hx, hrest⟩ := List.forall_mem_cons.mp hwf
      refine ⟨hx, fun n e he => ?_, hrest, fun m n d e hmn hd he => ?_⟩
      · simpa [Nat.add_assoc, Nat.add_comm 1] using
          hpairs 0 (n + 1) x e (by omega) rfl (by simpa using he)
      · simpa [Nat.add_assoc, Nat.add_comm 1] using
          hpairs (m + 1) (n + 1) d e (by omega) (by simpa using hd) (by simpa using he)

/-- Settles O8: the two loops of the validator, from index 0. -/
theorem validatorAcceptsExactlyValidCatalogs : Obligations.ValidatorAcceptsExactlyValidCatalogs := by
  intro cat allow
  simp only [Catalog.valid, firstBad_eq_none_iff, wf_iff, pairOk_iff, Nat.zero_add]
  rfl

/-! ### Names -/

/-- Settles O57: both tables are finite. -/
theorem conditionAndFlagNames : Obligations.ConditionAndFlagNames :=
  ⟨rfl, rfl, rfl, rfl⟩

/-! ### The fields of an assembled word -/

/-- Setting other fields leaves a field. -/
theorem get_foldl_set_other {f : Field} {fvs : List (Field × Nat)} (t : Op32)
    (h : ∀ fv ∈ fvs, f.lo + f.width ≤ fv.1.lo ∨ fv.1.lo + fv.1.width ≤ f.lo) :
    f.get (fvs.foldl (fun t fv => fv.1.set t fv.2) t) = f.get t := by
  induction fvs generalizing t with
  | nil => rfl
  | cons fv rest ih =>
    rw [List.foldl_cons, ih _ (fun x hx => h x (List.mem_cons_of_mem _ hx)),
      get_set_disjoint _ _ (h fv List.mem_cons_self)]

/-- Each of several disjoint fields reads the value set into it. -/
theorem get_foldl_set {fs : List Field}
    (hfs : fs.Pairwise (fun f g => f.lo + f.width ≤ g.lo ∨ g.lo + g.width ≤ f.lo)) {vals : List Nat} {n : Nat}
    {f : Field} {v : Nat} (hf : fs[n]? = some f) (hv : vals[n]? = some v) (h32 : f.lo + f.width ≤ 32) {t : Op32}
    (ht : f.get t = 0) : f.get ((fs.zip vals).foldl (fun t fv => fv.1.set t fv.2) t) = v % 2 ^ f.width := by
  induction fs generalizing vals n t with
  | nil => simp at hf
  | cons g rest ih =>
    obtain ⟨hg, hrest⟩ := List.pairwise_cons.mp hfs
    cases vals with
    | nil => simp at hv
    | cons u us =>
      rw [List.zip_cons_cons, List.foldl_cons]
      cases n with
      | zero =>
        obtain rfl : g = f := by simpa using hf
        obtain rfl : u = v := by simpa using hv
        rw [get_foldl_set_other _ (fun fv hfv => hg fv.1 (List.of_mem_zip hfv).1), get_set_self _ h32 ht]
      | succ n =>
        have hmem : f ∈ rest := List.mem_of_getElem? hf
        exact ih hrest hf hv ((get_set_disjoint _ _ (hg f hmem).symm).trans ht)

/-- A field of an assembled word reads the value given for it (30_encoding.md R73). -/
theorem get_assemble {d : Descriptor} (hd : d.wf = true) {vals : List Nat} {n : Nat} {f : Field} {v : Nat}
    (hf : d.fields[n]? = some f) (hv : vals[n]? = some v) : f.get (d.assemble vals) = v % 2 ^ f.width := by
  have hmem : f ∈ d.fields := List.mem_of_getElem? hf
  obtain ⟨-, -, -, hdisjoint⟩ := (wf_iff d).mp hd
  exact get_foldl_set hdisjoint hf hv (field_le_of_wf hd hmem) (get_opcode_of_wf hd hmem)

theorem bitsAt_eq_ofNat_get (f : Field) (op : Op32) : bitsAt f.lo f.width op = BitVec.ofNat f.width (f.get op) := by
  apply BitVec.eq_of_toNat_eq
  simp [bitsAt, Field.get, Nat.and_two_pow_sub_one_eq_mod]

/-- The round trip of one operand through the word of its row. -/
theorem bitsAt_assemble {d : Descriptor} (hd : d.wf = true) {vals : List Nat} (n : Nat) {f : Field}
    {v : BitVec f.width} (hf : d.fields[n]? = some f) (hv : vals[n]? = some v.toNat) :
    bitsAt f.lo f.width (d.assemble vals) = v := by
  rw [bitsAt_eq_ofNat_get, get_assemble hd hf hv, Nat.mod_eq_of_lt v.isLt, BitVec.ofNat_toNat, BitVec.setWidth_eq]

/-- A 2-byte word has a zero high half (30_encoding.md R67): the upper sixteen bits are outside every field of the row. -/
theorem assemble_toNat_lt {d : Descriptor} (hd : d.wf = true) (hlen : d.length = .two) (vals : List Nat) :
    (d.assemble vals).toNat < 2 ^ 16 := by
  obtain ⟨-, hsmall, hfields, -⟩ := (wf_iff d).mp hd
  have hupper : (⟨"", 16, 16, .immU⟩ : Field).get (d.assemble vals) = (⟨"", 16, 16, .immU⟩ : Field).get d.opcode :=
    get_foldl_set_other _ fun fv hfv => by
      have hle := (hfields fv.1 (List.of_mem_zip hfv).1).2
      rw [hlen] at hle
      exact .inr hle
  have hopcode := (hsmall hlen).2
  have hword := (d.assemble vals).isLt
  simp only [Field.get, Nat.and_two_pow_sub_one_eq_mod, Nat.shiftRight_eq_div_pow] at hupper
  omega

/-- The window of a word's bytes gives the word back (20_memory.md R47, R48). -/
theorem opcode_ofBytes_assemble {d : Descriptor} (hd : d.wf = true) (vals : List Nat) :
    (Window.ofBytes (bytesOf (d.assemble vals) d.length)).opcode d.length = d.assemble vals := by
  cases hlen : d.length with
  | two =>
    have hlt := assemble_toNat_lt hd hlen vals
    rw [Window.opcode, opcode16_bytesOf]
    apply BitVec.eq_of_toNat_eq
    rw [BitVec.toNat_setWidth, BitVec.toNat_setWidth]
    omega
  | four => exact opcode32_bytesOf _

/-! ### The two passes -/

/-- Modes that accept one flag are compatible (30_encoding.md R69, 40_dispatch.md R103). -/
theorem compatible_of_accepts {a b : CompatMode} {m : Bool} (ha : a.accepts m = true) (hb : b.accepts m = true) :
    a = b ∨ a = .any ∨ b = .any := by
  cases a with
  | any => exact .inr (.inl rfl)
  | mode0 =>
    cases b with
    | any => exact .inr (.inr rfl)
    | mode0 => exact .inl rfl
    | mode1 => simp_all [CompatMode.accepts]
  | mode1 =>
    cases b with
    | any => exact .inr (.inr rfl)
    | mode0 => simp_all [CompatMode.accepts]
    | mode1 => exact .inl rfl

/-- In a valid catalog a matching row is the first accepted one, unless an allow-listed specialization before it
matches too (30_encoding.md R69, 40_dispatch.md R104). -/
theorem pass_eq_some_of_valid {cat : Catalog} {allow : List (Nat × Nat)} (hcat : cat.valid allow) {k : Nat}
    {d : Descriptor} (hk : cat[k]? = some d) {op : Op32} (hop : d.matches op = true) {p : Params} {c : Cfg}
    (hmode : d.mode.accepts (activeMode p c) = true)
    (hspecial : ∀ j e, (j, k) ∈ allow → cat[j]? = some e → e.matches op = false) :
    pass p c cat d.length op = some (k, d) := by
  obtain ⟨-, hpairs⟩ := (validatorAcceptsExactlyValidCatalogs cat allow).mp hcat
  refine (findRow_eq_some _ _ _ _).mpr ⟨hk, by simp [Descriptor.selected, hop, hmode], fun j hj e he => ?_⟩
  by_contra hsel
  simp only [Bool.not_eq_false, Descriptor.selected, Bool.and_eq_true, decide_eq_true_eq] at hsel
  obtain ⟨⟨hlen, hmatch⟩, haccept⟩ := hsel
  obtain ⟨-, hallow⟩ :=
    hpairs j k e d hj he hk hlen (compatible_of_accepts haccept hmode) (overlaps_of_matches hmatch hop)
  simp [hspecial j e hallow he] at hmatch

/-- A 2-byte row as it reads the high half of a 4-byte opcode value (20_memory.md R49). -/
def Descriptor.onFirstWord (d : Descriptor) : Descriptor :=
  { d with opcode := d.opcode <<< 16, mask := d.mask <<< 16 }

/-- A row that matches the first word of a window matches its 4-byte opcode value there. -/
theorem onFirstWord_matches {d : Descriptor} {w : Window} (h : d.matches (w.opcode .two) = true) :
    d.onFirstWord.matches (w.opcode .four) = true := by
  rw [matches_iff_bits] at h ⊢
  intro i
  simp only [Descriptor.onFirstWord, BitVec.getLsbD_shiftLeft]
  by_cases hi : 16 ≤ i ∧ i < 32
  · rw [← h (i - 16)]
    simp [Window.opcode, opcode16_eq_high, hi, show ¬ i < 16 by omega, show i - 16 < 16 by omega,
      show i - 16 < 32 by omega, show 16 + (i - 16) = i by omega]
  · by_cases hlt : i < 16
    · simp [hlt]
    · simp [show ¬ i < 32 by omega]

/-- No 2-byte row of the default catalog reads a first word that a 4-byte row reads (44_catalog.md R239). -/
theorem catalogGK_onFirstWord : ∀ d ∈ catalogGK, ∀ e ∈ catalogGK, d.length = .two → e.length = .four →
    d.onFirstWord.overlaps e = false := by decide

/-- The 2-byte pass finds nothing on the first word of a 4-byte row. -/
theorem pass_two_eq_none {e : Descriptor} (he : e ∈ catalogGK) (hlen : e.length = .four) {w : Window}
    (hw : e.matches (w.opcode .four) = true) (p : Params) (c : Cfg) :
    pass p c catalogGK .two (w.opcode .two) = none := by
  refine (findRow_eq_none _ _ _).mpr fun d hd => ?_
  by_contra hsel
  simp only [Bool.not_eq_false, Descriptor.selected, Bool.and_eq_true, decide_eq_true_eq] at hsel
  obtain ⟨⟨hd2, hmatch⟩, -⟩ := hsel
  have hoverlap := overlaps_of_matches (onFirstWord_matches hmatch) hw
  simp [catalogGK_onFirstWord d hd e he hd2 hlen] at hoverlap

/-- Over the default catalog decode finishes any row that matches, unless an allow-listed specialization of it matches too
(40_dispatch.md R113). -/
theorem decodeWindow_of_matches {k : Nat} {d : Descriptor} (hk : catalogGK[k]? = some d) {w : Window}
    (hw : d.matches (w.opcode d.length) = true)
    (hspecial : ∀ j e, (j, k) ∈ allowGK → catalogGK[j]? = some e → e.matches (w.opcode d.length) = false)
    (p : Params) (c : Cfg) : decodeWindow p c catalogGK w 4 = finish p c k d (w.opcode d.length) := by
  have hmem : d ∈ catalogGK := List.mem_of_getElem? hk
  have hmode : d.mode.accepts (activeMode p c) = true := by rw [(catalogGK_objmodeFree d hmem).1]; rfl
  have hpass := pass_eq_some_of_valid Machine.catalogGK_valid hk hw hmode hspecial
  cases hlen : d.length with
  | two =>
    rw [hlen] at hpass
    exact decodeWindow_of_pass_two hpass (by omega)
  | four =>
    rw [hlen] at hpass hw
    simp [decodeWindow, pass_two_eq_none hmem hlen hw p c, hpass]

/-! ### The row of an instruction -/

/-- `i` is the instruction of the default catalog's row `d` with the field values `vals`: the encoder takes the row and
writes the values, and the row and the word are the instruction again. -/
structure Instr.OfRow (i : Instr) (d : Descriptor) (vals : List Nat) : Prop where
  mem : d ∈ catalogGK
  selects : i.selects = isRow d
  word : i.wordIn d = d.assemble vals
  term : instrOf d (d.assemble vals) = some i

/-- The row of an instruction with one operand. -/
theorem Instr.OfRow.one (d : Descriptor) {f : Field} (hd : d ∈ catalogGK) (hf : d.fields = [f])
    {make : BitVec f.width → Instr} (v : BitVec f.width) (hselects : (make v).selects = isRow d)
    (hword : (make v).wordIn d = d.assemble [v.toNat])
    (hterm : ∀ op, instrOf d op = some (make (bitsAt f.lo f.width op))) : (make v).OfRow d [v.toNat] := by
  have hv := bitsAt_assemble (Laws.catalogGK_wf d hd) (vals := [v.toNat]) 0 (by rw [hf]; rfl) rfl
  exact ⟨hd, hselects, hword, by rw [hterm, hv]⟩

/-- The row of an instruction with two operands. -/
theorem Instr.OfRow.two (d : Descriptor) {f g : Field} (hd : d ∈ catalogGK) (hf : d.fields = [f, g])
    {make : BitVec f.width → BitVec g.width → Instr} (v : BitVec f.width) (u : BitVec g.width)
    (hselects : (make v u).selects = isRow d) (hword : (make v u).wordIn d = d.assemble [v.toNat, u.toNat])
    (hterm : ∀ op, instrOf d op = some (make (bitsAt f.lo f.width op) (bitsAt g.lo g.width op))) :
    (make v u).OfRow d [v.toNat, u.toNat] := by
  have hwf := Laws.catalogGK_wf d hd
  have hv := bitsAt_assemble hwf (vals := [v.toNat, u.toNat]) 0 (by rw [hf]; rfl) rfl
  have hu := bitsAt_assemble hwf (vals := [v.toNat, u.toNat]) 1 (by rw [hf]; rfl) rfl
  exact ⟨hd, hselects, hword, by rw [hterm, hv, hu]⟩

/-- Every well-formed instruction has its row (44_catalog.md R195 to R225); those of an open row are not well formed. -/
theorem exists_ofRow {p : Params} {amode : Bool} {i : Instr} (h : i.wellFormed p amode = true) :
    ∃ d vals, i.OfRow d vals := by
  cases i with
  | itrap0 => exact ⟨rowItrap0, [], by decide, rfl, rfl, rfl⟩
  | itrap1 => exact ⟨rowItrap1, [], by decide, rfl, rfl, rfl⟩
  | aborti => exact ⟨rowAborti, [], by decide, rfl, rfl, rfl⟩
  | lretr => exact ⟨rowLretr, [], by decide, rfl, rfl, rfl⟩
  | iret => exact ⟨rowIret, [], by decide, rfl, rfl, rfl⟩
  | lrete => exact ⟨rowLrete, [], by decide, rfl, rfl, rfl⟩
  | lret => exact ⟨rowLret, [], by decide, rfl, rfl, rfl⟩
  | lbXar7 => exact ⟨rowLbXar7, [], by decide, rfl, rfl, rfl⟩
  | nop => exact ⟨rowNop, [], by decide, rfl, rfl, rfl⟩
  | eint => exact ⟨rowEint, [], by decide, rfl, rfl, rfl⟩
  | dint => exact ⟨rowDint, [], by decide, rfl, rfl, rfl⟩
  | trap v => exact ⟨_, _, .one rowTrap (by decide) rfl (make := .trap) v rfl rfl (fun _ => rfl)⟩
  | clrc v => exact ⟨_, _, .one rowClrc (by decide) rfl (make := .clrc) v rfl rfl (fun _ => rfl)⟩
  | setc v => exact ⟨_, _, .one rowSetc (by decide) rfl (make := .setc) v rfl rfl (fun _ => rfl)⟩
  | rptImm v => exact ⟨_, _, .one rowRptImm (by decide) rfl (make := .rptImm) v rfl rfl (fun _ => rfl)⟩
  | rptLoc v => exact ⟨_, _, .one rowRptLoc (by decide) rfl (make := .rptLoc) v rfl rfl (fun _ => rfl)⟩
  | movlAccLoc v => exact ⟨_, _, .one rowMovlAccLoc (by decide) rfl (make := .movlAccLoc) v rfl rfl (fun _ => rfl)⟩
  | movAlLoc v => exact ⟨_, _, .one rowMovAlLoc (by decide) rfl (make := .movAlLoc) v rfl rfl (fun _ => rfl)⟩
  | movAhLoc v => exact ⟨_, _, .one rowMovAhLoc (by decide) rfl (make := .movAhLoc) v rfl rfl (fun _ => rfl)⟩
  | movLocAl v => exact ⟨_, _, .one rowMovLocAl (by decide) rfl (make := .movLocAl) v rfl rfl (fun _ => rfl)⟩
  | movLocAh v => exact ⟨_, _, .one rowMovLocAh (by decide) rfl (make := .movLocAh) v rfl rfl (fun _ => rfl)⟩
  | addb v => exact ⟨_, _, .one rowAddb (by decide) rfl (make := .addb) v rfl rfl (fun _ => rfl)⟩
  | lb v => exact ⟨_, _, .one rowLb (by decide) rfl (make := .lb) v rfl rfl (fun _ => rfl)⟩
  | lc v => exact ⟨_, _, .one rowLc (by decide) rfl (make := .lc) v rfl rfl (fun _ => rfl)⟩
  | ffc v => exact ⟨_, _, .one rowFfc (by decide) rfl (make := .ffc) v rfl rfl (fun _ => rfl)⟩
  | lcr v => exact ⟨_, _, .one rowLcr (by decide) rfl (make := .lcr) v rfl rfl (fun _ => rfl)⟩
  | sb v u => exact ⟨_, _, .two rowSb (by decide) rfl (make := .sb) v u rfl rfl (fun _ => rfl)⟩
  | banz v u => exact ⟨_, _, .two rowBanz (by decide) rfl (make := .banz) v u rfl rfl (fun _ => rfl)⟩
  | b v u => exact ⟨_, _, .two rowB (by decide) rfl (make := .b) v u rfl rfl (fun _ => rfl)⟩
  | movAccImm v u => exact ⟨_, _, .two rowMovAccImm (by decide) rfl (make := .movAccImm) v u rfl rfl (fun _ => rfl)⟩
  | inLoc v u => exact ⟨_, _, .two rowInLoc (by decide) rfl (make := .inLoc) v u rfl rfl (fun _ => rfl)⟩
  | loopz | loopnz | rptb | xbArp | xbCond | xcallArp | xretc | lcXar7 | lcrXar | sbf | bar | bf | intr => cases h

/-- The search for a row of a catalog finds one equal to it. -/
theorem findRow_isRow {cat : Catalog} {d : Descriptor} (hd : d ∈ cat) : ∃ k, findRow (isRow d) cat 0 = some (k, d) := by
  cases hfind : findRow (isRow d) cat 0 with
  | none => simpa [isRow] using (findRow_eq_none _ _ _).mp hfind d hd
  | some kd =>
    obtain ⟨-, hrow, -⟩ := (findRow_eq_some _ _ _ _).mp hfind
    obtain rfl : kd.2 = d := by simpa [isRow] using hrow
    exact ⟨kd.1, rfl⟩

/-! ### The record of an encoded instruction -/

/-- The location fields of the default catalog, each with its row. -/
def locFieldsGK : List (Descriptor × Field) :=
  [(rowRptLoc, fieldLoc8 .loc16), (rowMovlAccLoc, fieldLoc8 .loc32), (rowMovAlLoc, fieldLoc8 .loc16),
    (rowMovAhLoc, fieldLoc8 .loc16), (rowMovLocAl, fieldLoc8 .loc16), (rowMovLocAh, fieldLoc8 .loc16),
    (rowInLoc, ⟨"loc", 16, 8, .loc16⟩)]

theorem mem_locFieldsGK : ∀ d ∈ catalogGK, ∀ f ∈ d.fields, f.kind.locWidth? = none ∨ (d, f) ∈ locFieldsGK := by
  decide

/-- The location byte of a well-formed instruction is the one its word holds, and it resolves (30_encoding.md R82,
R85). -/
theorem resolve_of_wellFormed {p : Params} {amode : Bool} {i : Instr} (hi : i.wellFormed p amode = true)
    {d : Descriptor} (hd : d ∈ catalogGK) {op : Op32} (hop : instrOf d op = some i) {f : Field} (hf : f ∈ d.fields)
    {w : LocWidth} (hw : f.kind.locWidth? = some w) :
    (resolve p amode w (BitVec.ofNat 8 (f.get op))).isSome = true := by
  have hmem : (d, f) ∈ locFieldsGK := (mem_locFieldsGK d hd f hf).resolve_left (by simp [hw])
  simp only [locFieldsGK, List.mem_cons, Prod.mk.injEq, List.not_mem_nil, or_false] at hmem
  rcases hmem with ⟨rfl, rfl⟩ | ⟨rfl, rfl⟩ | ⟨rfl, rfl⟩ | ⟨rfl, rfl⟩ | ⟨rfl, rfl⟩ | ⟨rfl, rfl⟩ | ⟨rfl, rfl⟩
  all_goals
    obtain rfl := Option.some.inj hop
    obtain rfl := Option.some.inj hw
    exact (bitsAt_eq_ofNat_get _ op) ▸ hi

/-- A row whose location bytes resolve is finished to a record (40_dispatch.md R108, R109). -/
theorem exists_finish_eq_ok {p : Params} {c : Cfg} {d : Descriptor} {op : Op32}
    (h : ∀ f ∈ d.fields, ∀ w, f.kind.locWidth? = some w →
      (resolve p c.amode w (BitVec.ofNat 8 (f.get op))).isSome = true) (k : Nat) :
    ∃ r, finish p c k d op = .ok r := by
  cases hfin : finish p c k d op with
  | ok r => exact ⟨r, rfl⟩
  | error e =>
    obtain ⟨pre, post, f, w, hfields, hw, hnone, -⟩ :=
      extractLocs_eq_error _ _ _ _ _ ((finish_eq_error _ _ _ _ _ _).mp hfin)
    simpa [hnone] using h f (by simp [hfields]) w hw

/-- The record of an instruction's own row and word is that instruction. -/
theorem identify_of_finish {p : Params} {c : Cfg} {cat : Catalog} {i : Instr} {k : Nat} {d : Descriptor}
    (hrow : findRow i.selects cat 0 = some (k, d)) (hterm : instrOf d (i.wordIn d) = some i) {r : Decoded}
    (hfin : finish p c k d (i.wordIn d) = .ok r) : identify p c cat r = some i := by
  obtain ⟨hk, -, -⟩ := (findRow_eq_some _ _ _ _).mp hrow
  have hrecord : i.record p c cat = some (.ok r) := by rw [Instr.record, hrow, ← hfin]; rfl
  obtain ⟨locs, -, hr⟩ := (finish_eq_ok _ _ _ _ _ _).mp hfin
  have hdesc : r.desc = k := by rw [hr]
  have hraw : r.raw = i.wordIn d := by rw [hr]
  simp [identify, hdesc, hk, hraw, hterm, hrecord]

/-- Two words that agree under `0xFFFF` have the same low byte. -/
theorem bitsAt_low_of_and_eq {op o : Op32} (h : op &&& 0xFFFF = o) : bitsAt 0 8 op = bitsAt 0 8 o := by
  rw [← h, bitsAt, bitsAt, BitVec.extractLsb'_and]
  exact (BitVec.and_allOnes).symm

/-- The word of a well-formed CLRC or SETC is not the one that EINT or DINT takes (30_encoding.md R90). -/
theorem not_matches_specialization {p : Params} {amode : Bool} {i : Instr} (hi : i.wellFormed p amode = true)
    {k : Nat} {d : Descriptor} (hk : catalogGK[k]? = some d) {op : Op32} (hop : instrOf d op = some i) {j : Nat}
    {e : Descriptor} (hallow : (j, k) ∈ allowGK) (hj : catalogGK[j]? = some e) : e.matches op = false := by
  by_contra hmatch
  replace hmatch : op &&& e.mask = e.opcode := by simpa [Descriptor.matches] using hmatch
  simp only [allowGK, List.mem_cons, Prod.mk.injEq, List.not_mem_nil, or_false] at hallow
  rcases hallow with ⟨rfl, rfl⟩ | ⟨rfl, rfl⟩
  all_goals
    obtain rfl := Option.some.inj hk
    obtain rfl := Option.some.inj hj
    obtain rfl := Option.some.inj hop
    replace hi : (bitsAt 0 8 op != 0x10) = true := hi
    rw [bitsAt_low_of_and_eq hmatch] at hi
    exact absurd hi (by decide)

/-- Settles O16: the word of a well-formed instruction matches its row and no specialization before it, so decode
finishes that very row, and the fields read back. -/
theorem decodeOfEncodeIsTheInstruction : Obligations.DecodeOfEncodeIsTheInstruction := by
  intro p c i hi
  obtain ⟨d, vals, hrow⟩ := exists_ofRow hi
  obtain ⟨k, hfind⟩ := findRow_isRow hrow.mem
  rw [← hrow.selects] at hfind
  obtain ⟨hk, -, -⟩ := (findRow_eq_some _ _ _ _).mp hfind
  have hwf := Laws.catalogGK_wf d hrow.mem
  have hbytes : encode i = bytesOf (d.assemble vals) d.length := by
    simp [encode, encodeIn, hfind, hrow.word]
  have hop : (Window.ofBytes (encode i)).opcode d.length = d.assemble vals := by
    rw [hbytes, opcode_ofBytes_assemble hwf]
  have hdecode : decodeWindow p c catalogGK (Window.ofBytes (encode i)) 4 = finish p c k d (d.assemble vals) := by
    rw [← hop]
    refine decodeWindow_of_matches hk ?_ (fun j e hallow hj => ?_) p c
    · rw [hop]
      exact assemble_matches d vals hwf
    · rw [hop]
      exact not_matches_specialization hi hk hrow.term hallow hj
  obtain ⟨r, hfin⟩ := exists_finish_eq_ok (fun f hf w hw => resolve_of_wellFormed hi hrow.mem hrow.term hf hw) k
  rw [decodeInstr, hdecode, hfin]
  exact congrArg Except.ok
    (identify_of_finish hfind (hrow.word ▸ hrow.term) (hrow.word ▸ hfin))

end Sys2Proof

/-! SUPPORT. Sys2Proof/Proofs/Dispatch.lean: the two passes, the operand extraction field by field, the step that runs a
decoded instruction, the matching property, and the encoder after the dispatcher (40_dispatch.md). -/

namespace Sys2Proof

open Machine

/-! ### Acceptance and the two passes -/

theorem accepts_iff (m : CompatMode) (mode : Bool) :
    m.accepts mode = true ↔ m = .any ∨ (m = .mode0 ∧ mode = false) ∨ (m = .mode1 ∧ mode = true) := by
  cases m <;> simp [CompatMode.accepts]

/-- The test of a pass is acceptance as the rules spell it out (40_dispatch.md R102, R103). -/
theorem selected_iff (mode : Bool) (len : Len) (op : Op32) (d : Descriptor) :
    d.selected mode len op = true ↔ Accepted mode len op d := by
  simp only [Descriptor.selected, Descriptor.matches, Accepted, Bool.and_eq_true, decide_eq_true_iff, accepts_iff,
    and_assoc]

theorem pass_eq_some_iff (p : Params) (c : Cfg) (cat : Catalog) (len : Len) (op : Op32) (i : Nat) (d : Descriptor) :
    pass p c cat len op = some (i, d) ↔ FirstAt cat (Accepted (activeMode p c) len op) i d := by
  simp only [pass, findRow_eq_some, FirstAt, ← selected_iff, Bool.not_eq_true]

theorem pass_eq_none_iff (p : Params) (c : Cfg) (cat : Catalog) (len : Len) (op : Op32) :
    pass p c cat len op = none ↔ ∀ d ∈ cat, ¬ Accepted (activeMode p c) len op d := by
  simp only [pass, findRow_eq_none, ← selected_iff, Bool.not_eq_true]

/-- A 4-byte match is reached when the 16-bit pass finds no row (40_dispatch.md R105). -/
theorem decodeWindow_of_pass_four {p : Params} {c : Cfg} {cat : Catalog} {w : Window} {i : Nat} {d : Descriptor}
    (h16 : pass p c cat .two (w.opcode .two) = none) (h32 : pass p c cat .four (w.opcode .four) = some (i, d))
    {n : Nat} (hn : 4 ≤ n) : decodeWindow p c cat w n = finish p c i d (w.opcode .four) := by
  simp [decodeWindow, show ¬ n < 2 by omega, show ¬ n < 4 by omega, h16, h32]

/-- Settles O12: each case is one branch of the dispatcher, and the two passes are searches for the first accepted row. -/
theorem dispatcherTriesTwoPasses : Obligations.DispatcherTriesTwoPasses := by
  intro p c cat w n mode acc16 acc32
  have hpass16 : (∀ d ∈ cat, ¬ acc16 d) → pass p c cat .two (w.opcode .two) = none :=
    (pass_eq_none_iff p c cat .two _).mpr
  have hpass32 : (∀ d ∈ cat, ¬ acc32 d) → pass p c cat .four (w.opcode .four) = none :=
    (pass_eq_none_iff p c cat .four _).mpr
  refine ⟨fun hn => ?_, fun i d hn hfirst => ?_, fun h2 h4 hno => ?_, fun i d hn hno hfirst => ?_,
    fun hn hno16 hno32 => ?_⟩
  · rw [decodeWindow, if_pos hn]
  · exact decodeWindow_of_pass_two ((pass_eq_some_iff p c cat .two _ i d).mpr hfirst) hn
  · rw [decodeWindow, if_neg (by omega), hpass16 hno, if_pos h4]
  · exact decodeWindow_of_pass_four (hpass16 hno) ((pass_eq_some_iff p c cat .four _ i d).mpr hfirst) hn
  · rw [decodeWindow, if_neg (by omega), hpass16 hno16, if_neg (by omega), hpass32 hno32]

/-! ### The extraction of one field -/

theorem isLoc_iff (f : Field) (w : LocWidth) : IsLoc f w ↔ f.kind.locWidth? = some w := by
  unfold IsLoc
  cases f.kind <;> cases w <;> simp [FieldKind.locWidth?]

theorem locWidth?_eq_none_iff (f : Field) : f.kind.locWidth? = none ↔ ∀ w, ¬ IsLoc f w := by
  simp only [isLoc_iff, Option.eq_none_iff_forall_ne_some, ne_eq]

theorem extractField_of_not_loc {p : Params} {c : Cfg} {op : Op32} {f : Field} (hf : ∀ w, ¬ IsLoc f w) :
    extractField p c op f = .ok none := by
  rw [extractField, (locWidth?_eq_none_iff f).mpr hf]

theorem extractField_of_resolve {p : Params} {c : Cfg} {op : Op32} {f : Field} {w : LocWidth} (hf : IsLoc f w) {l : Loc}
    (hl : resolve p c.amode w (locByte f op) = some l) : extractField p c op f = .ok (some l) := by
  simp only [extractField, (isLoc_iff f w).mp hf, hl]

theorem extractField_of_resolve_none {p : Params} {c : Cfg} {op : Op32} {f : Field} {w : LocWidth} (hf : IsLoc f w)
    (hl : resolve p c.amode w (locByte f op) = none) :
    extractField p c op f = .error (.addrResolve op f.name (locByte f op) c.amode w) := by
  simp only [extractField, (isLoc_iff f w).mp hf, hl]

/-- The extraction of a field succeeds unless it is a location field whose byte does not resolve (40_dispatch.md R109). -/
theorem extractField_isOk_iff (p : Params) (c : Cfg) (op : Op32) (f : Field) :
    (∃ l, extractField p c op f = .ok l) ↔ ∀ w, IsLoc f w → resolve p c.amode w (locByte f op) ≠ none := by
  constructor
  · rintro ⟨l, hl⟩ w hw hnone
    simp [extractField_of_resolve_none hw hnone] at hl
  · intro h
    cases hw : f.kind.locWidth? with
    | none => exact ⟨none, extractField_of_not_loc ((locWidth?_eq_none_iff f).mp hw)⟩
    | some w =>
      have hloc := (isLoc_iff f w).mpr hw
      obtain ⟨l, hl⟩ := Option.ne_none_iff_exists'.mp (h w hloc)
      exact ⟨some l, extractField_of_resolve hloc hl⟩

/-! ### The extraction of a list of fields -/

/-- The assignment a field makes to the map of addressing descriptors: none for another kind of field. -/
def locAssignment (p : Params) (c : Cfg) (op : Op32) (f : Field) : Option (String × Loc) :=
  match extractField p c op f with
  | .ok (some l) => some (f.name, l)
  | _ => none

theorem locAssignment_of_resolve {p : Params} {c : Cfg} {op : Op32} {f : Field} {w : LocWidth} (hf : IsLoc f w) {l : Loc}
    (hl : resolve p c.amode w (locByte f op) = some l) : locAssignment p c op f = some (f.name, l) := by
  rw [locAssignment, extractField_of_resolve hf hl]

/-- Only a location field makes an assignment, to its own name. -/
theorem isLoc_of_locAssignment {p : Params} {c : Cfg} {op : Op32} {f : Field} {x : String × Loc}
    (h : locAssignment p c op f = some x) : (∃ w, IsLoc f w) ∧ x.1 = f.name := by
  unfold locAssignment at h
  split at h
  next l hl =>
    refine ⟨?_, by rw [← Option.some.inj h]⟩
    by_contra hno
    simp [extractField_of_not_loc (not_exists.mp hno)] at hl
  next => cases h

/-- A successful extraction succeeds on every field and makes the assignments in field order. -/
theorem extractLocs_eq_ok {p : Params} {c : Cfg} {op : Op32} {fs : List Field} {ls : List (String × Loc)}
    (h : extractLocs p c op fs = .ok ls) :
    (∀ f ∈ fs, ∃ l, extractField p c op f = .ok l) ∧ ls = fs.filterMap (locAssignment p c op) := by
  induction fs generalizing ls with
  | nil => simpa [extractLocs] using h.symm
  | cons f rest ih =>
    simp only [extractLocs] at h
    cases hl : extractField p c op f with
    | error e => simp [hl] at h
    | ok l =>
      cases hls : extractLocs p c op rest with
      | error e => simp [hl, hls] at h
      | ok ls' =>
        obtain ⟨hrest, rfl⟩ := ih hls
        refine ⟨List.forall_mem_cons.mpr ⟨⟨l, hl⟩, hrest⟩, ?_⟩
        cases l <;> simp_all [locAssignment]

/-- The first failing field fails the extraction (60_exceptions.md R258). -/
theorem extractLocs_of_first_error {p : Params} {c : Cfg} {op : Op32} {pre post : List Field} {f : Field} {e : Failure}
    (hpre : ∀ g ∈ pre, ∃ l, extractField p c op g = .ok l) (hf : extractField p c op f = .error e) :
    extractLocs p c op (pre ++ f :: post) = .error e := by
  induction pre with
  | nil => simp [extractLocs, hf]
  | cons g rest ih =>
    obtain ⟨⟨l, hl⟩, hrest⟩ := List.forall_mem_cons.mp hpre
    simp [extractLocs, hl, ih hrest]

/-- `finish` fails exactly for the first location field whose byte does not resolve (40_dispatch.md R109). -/
theorem finish_eq_error_iff (p : Params) (c : Cfg) (i : Nat) (d : Descriptor) (op : Op32) (e : Failure) :
    finish p c i d op = .error e ↔
      ∃ pre post f w, d.fields = pre ++ f :: post ∧ IsLoc f w ∧ resolve p c.amode w (locByte f op) = none ∧
        (∀ g ∈ pre, ∀ w', IsLoc g w' → resolve p c.amode w' (locByte g op) ≠ none) ∧
        e = .addrResolve op f.name (locByte f op) c.amode w := by
  rw [finish_eq_error]
  constructor
  · intro h
    obtain ⟨pre, post, f, w, hfields, hw, hnone, hpre, rfl⟩ := extractLocs_eq_error _ _ _ _ _ h
    exact ⟨pre, post, f, w, hfields, (isLoc_iff f w).mpr hw, hnone,
      fun g hg => (extractField_isOk_iff p c op g).mp (hpre g hg), rfl⟩
  · rintro ⟨pre, post, f, w, hfields, hw, hnone, hpre, rfl⟩
    rw [hfields]
    exact extractLocs_of_first_error (fun g hg => (extractField_isOk_iff p c op g).mpr (hpre g hg))
      (extractField_of_resolve_none hw hnone)

/-! ### The field maps of a record -/

theorem lookupField_ne_none_iff {α : Type} (l : List (String × α)) (name : String) :
    lookupField l name ≠ none ↔ ∃ x ∈ l, x.1 = name := by
  refine ⟨fun h => ?_, ?_⟩
  · by_contra hno
    exact h (lookupField_eq_none l name fun x hx hname => hno ⟨x, hx, hname⟩)
  · rintro ⟨x, hx, hname⟩
    induction l with
    | nil => cases hx
    | cons y rest ih =>
      rw [lookupField]
      split
      next => exact Option.some_ne_none _
      next hy =>
        refine ih ((List.mem_cons.mp hx).resolve_left fun hxy => hy ?_)
        rw [← hname, hxy]

theorem lookupField_assigned_ne_none_iff {α : Type} (l : List (String × α)) (name : String) :
    lookupField (assigned l) name ≠ none ↔ ∃ x ∈ l, x.1 = name := by
  rw [← lookupField_ne_none_iff, ← Option.isSome_iff_ne_none, ← Option.isSome_iff_ne_none, assigned_isSome]

/-- A map holds each name once. -/
theorem assigned_nodup {α : Type} (l : List (String × α)) : ((assigned l).map Prod.fst).Nodup := by
  induction l with
  | nil => exact List.nodup_nil
  | cons x rest ih =>
    obtain ⟨k, v⟩ := x
    rw [assigned]
    split
    next => exact ih
    next hk =>
      refine List.nodup_cons.mpr ⟨fun hmem => hk ?_, ih⟩
      rw [Option.isSome_iff_ne_none, lookupField_ne_none_iff]
      simpa using hmem

/-- `OBJ_EFFECT` keeps the names of a map, in order. -/
theorem applyObj_map_fst (c : Cfg) (d : Descriptor) (vals : Values) :
    (applyObj c d vals).map Prod.fst = vals.map Prod.fst := by
  unfold applyObj
  split <;> simp [Function.comp_def]

theorem value_eq (f : Field) (op : Op32) :
    f.value op = if f.kind = .rel ∨ f.kind = .immS then sext f.width (f.get op) else (f.get op : Int) := by
  unfold Field.value
  cases f.kind <;> simp [FieldKind.signed]

/-- The last field of a name gives the value of the name (40_dispatch.md R108). -/
theorem lookupField_extractValues {fs : List Field} {f : Field} (h : LastNamed fs f) (op : Op32) :
    lookupField (assigned (extractValues op fs)) f.name = some (f.value op) := by
  obtain ⟨pre, post, rfl, hpost⟩ := h
  rw [extractValues, List.map_append, List.map_cons]
  exact lookupField_assigned _ _ _ _ (by simpa using hpost)

/-- The names of the addressing map are those of the location fields. -/
theorem mem_locAssignments_iff {p : Params} {c : Cfg} {op : Op32} {fs : List Field}
    (hok : ∀ f ∈ fs, ∃ l, extractField p c op f = .ok l) (name : String) :
    (∃ x ∈ fs.filterMap (locAssignment p c op), x.1 = name) ↔ ∃ f ∈ fs, ∃ w, IsLoc f w ∧ f.name = name := by
  simp only [List.mem_filterMap]
  constructor
  · rintro ⟨x, ⟨f, hf, hx⟩, rfl⟩
    obtain ⟨⟨w, hw⟩, hname⟩ := isLoc_of_locAssignment hx
    exact ⟨f, hf, w, hw, hname.symm⟩
  · rintro ⟨f, hf, w, hw, rfl⟩
    obtain ⟨l, hl⟩ := Option.ne_none_iff_exists'.mp ((extractField_isOk_iff p c op f).mp (hok f hf) w hw)
    exact ⟨_, ⟨f, hf, locAssignment_of_resolve hw hl⟩, rfl⟩

/-- The last location field of a name gives the addressing form of the name (40_dispatch.md R108). -/
theorem lookupField_locAssignments {p : Params} {c : Cfg} {op : Op32} {pre post : List Field} {f : Field} {w : LocWidth}
    (hw : IsLoc f w) {l : Loc} (hl : resolve p c.amode w (locByte f op) = some l)
    (hpost : ∀ g ∈ post, ∀ w', IsLoc g w' → g.name ≠ f.name) :
    lookupField (assigned ((pre ++ f :: post).filterMap (locAssignment p c op))) f.name = some l := by
  rw [List.filterMap_append, List.filterMap_cons_some (locAssignment_of_resolve hw hl)]
  refine lookupField_assigned _ _ _ _ fun x hx => ?_
  obtain ⟨g, hg, hgx⟩ := List.mem_filterMap.mp hx
  obtain ⟨⟨w', hw'⟩, hname⟩ := isLoc_of_locAssignment hgx
  rw [hname]
  exact hpost g hg w' hw'

/-- An object-sensitive row gives the record of the plain row, with the values of `OBJ_EFFECT`
(10_state.md R21; notes/assumptions/3.md). -/
theorem exists_finish_of_objSensitive {p : Params} {c : Cfg} {i : Nat} {d : Descriptor} {op : Op32} {r : Decoded}
    (hd : d.objSensitive = true) (h : finish p c i d op = .ok r) :
    ∃ q, finish p c i { d with objSensitive := false } op = .ok q ∧
      r = { q with values := q.values.map (fun v => (v.1, Config.objEffect d c.objmode q.values v.1)) } := by
  obtain ⟨locs, hlocs, rfl⟩ := (finish_eq_ok _ _ _ _ _ _).mp h
  refine ⟨_, (finish_eq_ok _ _ _ _ _ _).mpr ⟨locs, hlocs, rfl⟩, ?_⟩
  simp [applyObj, hd]

/-- Settles O13: both maps are the assignments of the fields, made in order, and `OBJ_EFFECT` keeps their names. -/
theorem finishExtractsEveryField : Obligations.FinishExtractsEveryField := by
  refine fun p c i d op => ⟨fun r hr => ?_, finish_eq_error_iff p c i d op⟩
  have hobj := fun hd => exists_finish_of_objSensitive (d := d) hd hr
  obtain ⟨locs, hlocs, rfl⟩ := (finish_eq_ok _ _ _ _ _ _).mp hr
  obtain ⟨hok, rfl⟩ := extractLocs_eq_ok hlocs
  refine ⟨rfl, rfl, rfl, ?_, assigned_nodup _, fun name => ?_, fun name => ?_, fun f hd hlast => ?_,
    fun pre post f w hfields hw hpost => ?_, hobj⟩
  · rw [applyObj_map_fst]
    exact assigned_nodup _
  · rw [← Option.isSome_iff_ne_none, applyObj_isSome, Option.isSome_iff_ne_none, lookupField_assigned_ne_none_iff]
    simp [extractValues]
  · rw [lookupField_assigned_ne_none_iff, mem_locAssignments_iff hok]
  · rw [applyObj, if_neg (by simp [hd]), lookupField_extractValues hlast, value_eq]
  · obtain ⟨l, hl⟩ := Option.ne_none_iff_exists'.mp
      ((extractField_isOk_iff p c op f).mp (hok f (by simp [hfields])) w hw)
    rw [hfields, hl]
    exact lookupField_locAssignments hw hl hpost

end Sys2Proof

namespace Sys2Proof.Machine

/-! ### The step of a decoded instruction -/

theorem step_of_identify {s : State} {r : Decoded} {i : Instr} (hr : headRecord s = some (.ok r))
    (hi : identify s.params s.cfg s.catalog r = some i) : step s = exec i s := by
  rw [step, hr]
  simp only [hi]

theorem decodeInstr_eq_some {p : Params} {c : Cfg} {cat : Catalog} {w : Window} {n : Nat} {i : Instr}
    (h : decodeInstr p c cat w n = .ok (some i)) :
    ∃ r, decodeWindow p c cat w n = .ok r ∧ identify p c cat r = some i := by
  unfold decodeInstr at h
  split at h
  next => cases h
  next r hr => exact ⟨r, hr, Except.ok.inj h⟩

/-- Settles O37: the head's record is the window's, or the one handed in, and `step` meets `exec` through `identify`. -/
theorem stepRunsTheDecodedInstruction : Obligations.StepRunsTheDecodedInstruction := by
  refine fun s w n a r rest i => ⟨fun hc hi => ?_, fun hc hi => ?_⟩
  · obtain ⟨q, hq, hi⟩ := decodeInstr_eq_some hi
    refine step_of_identify ?_ hi
    rcases hc with hc | hc <;> simp [headRecord, hc, hq]
  · refine step_of_identify ?_ hi
    rcases hc with hc | hc <;> simp [headRecord, hc]

end Sys2Proof.Machine

namespace Sys2Proof

open Machine

/-! ### The matching property -/

/-- The outcomes of a finish: a record of the row, or a location field whose byte does not resolve
(40_dispatch.md R109). -/
theorem finish_outcome (p : Params) (c : Cfg) (j : Nat) (e : Descriptor) (raw : Op32) :
    (∃ r, finish p c j e raw = .ok r ∧ r.desc = j ∧ r.length = e.length ∧ r.raw = raw) ∨
    ∃ f ∈ e.fields, ∃ w, IsLoc f w ∧ resolve p c.amode w (locByte f raw) = none ∧
      finish p c j e raw = .error (.addrResolve raw f.name (locByte f raw) c.amode w) := by
  cases hfin : finish p c j e raw with
  | ok r =>
    obtain ⟨locs, -, rfl⟩ := (finish_eq_ok _ _ _ _ _ _).mp hfin
    exact .inl ⟨_, rfl, rfl, rfl, rfl⟩
  | error x =>
    obtain ⟨pre, post, f, w, hfields, hw, hnone, -, rfl⟩ := (finish_eq_error_iff p c j e raw x).mp hfin
    exact .inr ⟨f, by simp [hfields], w, hw, hnone, rfl⟩

/-- The mask of the low half takes the remainder. -/
theorem toNat_and_low_half (x : Op32) : (x &&& 0xFFFF#32).toNat = x.toNat % 2 ^ 16 :=
  Nat.and_two_pow_sub_one_eq_mod x.toNat 16

theorem and_low_half_of_lt {x : Op32} (h : x.toNat < 2 ^ 16) : x &&& 0xFFFF#32 = x :=
  BitVec.eq_of_toNat_eq ((toNat_and_low_half x).trans (Nat.mod_eq_of_lt h))

/-- The 16-bit opcode value of a 2-byte value's bytes is its low half (20_memory.md R47). -/
theorem opcode_two_of_bytes_two (op : Op32) :
    (Window.ofBytes (bytesOf op .two)).opcode .two = op &&& 0xFFFF#32 := by
  rw [Window.opcode, opcode16_bytesOf]
  apply BitVec.eq_of_toNat_eq
  rw [toNat_and_low_half, BitVec.toNat_setWidth, BitVec.toNat_setWidth]
  omega

/-- The 16-bit opcode value of a 4-byte value's bytes is its first word, the high half (20_memory.md R49). -/
theorem opcode_two_of_bytes_four (op : Op32) :
    (Window.ofBytes (bytesOf op .four)).opcode .two = op >>> 16 := by
  rw [Window.opcode, opcode16_eq_high, opcode32_bytesOf]
  apply BitVec.eq_of_toNat_eq
  have hlt := op.isLt
  simp only [BitVec.toNat_setWidth, BitVec.extractLsb'_toNat, BitVec.toNat_ushiftRight, Nat.shiftRight_eq_div_pow]
  omega

/-- A 2-byte row matches the low half of a value it matches: its mask lies there (30_encoding.md R67). -/
theorem matches_low_half {d : Descriptor} (hwf : d.wf = true) (hlen : d.length = .two) {op : Op32}
    (h : d.matches op = true) : d.matches (op &&& 0xFFFF#32) = true := by
  obtain ⟨-, hsmall, -, -⟩ := (wf_iff d).mp hwf
  rw [Descriptor.matches, BitVec.and_assoc, BitVec.and_comm _ d.mask, and_low_half_of_lt (hsmall hlen).1]
  exact h

/-- In a valid catalog the pass ends, for a value that a row of its length matches, at that row or at an allow-listed
earlier one (30_encoding.md R69, 40_dispatch.md R107). -/
theorem exists_pass_of_valid {cat : Catalog} {allow : List (Nat × Nat)} (hcat : cat.valid allow) {i : Nat}
    {d : Descriptor} (hi : cat[i]? = some d) {op : Op32} (hop : d.matches op = true) {p : Params} {c : Cfg}
    (hmode : d.mode.accepts (activeMode p c) = true) :
    ∃ j e, pass p c cat d.length op = some (j, e) ∧ (j = i ∨ (j < i ∧ (j, i) ∈ allow)) := by
  have hd : Accepted (activeMode p c) d.length op d := by
    rw [← selected_iff]
    simp [Descriptor.selected, hop, hmode]
  cases hpass : pass p c cat d.length op with
  | none => exact absurd hd ((pass_eq_none_iff p c cat _ op).mp hpass d (List.mem_of_getElem? hi))
  | some je =>
    obtain ⟨j, e⟩ := je
    refine ⟨j, e, rfl, ?_⟩
    obtain ⟨hj, he, hfirst⟩ := (pass_eq_some_iff p c cat _ op j e).mp hpass
    obtain hji | rfl | hij := Nat.lt_trichotomy j i
    · obtain ⟨hlen, hmatch, haccept⟩ := he
      have hallow := ((validatorAcceptsExactlyValidCatalogs cat allow).mp hcat).2 j i e d hji hj hi hlen
        (compatible_of_accepts ((accepts_iff _ _).mpr haccept) hmode)
        (overlaps_of_matches (decide_eq_true hmatch) hop)
      exact .inr ⟨hji, hallow.2⟩
    · exact .inl rfl
    · exact absurd hd (hfirst i hij d hi)

/-- The bytes of a value that a 2-byte row matches are finished by that row or an allow-listed one before it. -/
theorem decodeWindow_bytes_two {cat : Catalog} {allow : List (Nat × Nat)} (hcat : cat.valid allow) {i : Nat}
    {d : Descriptor} (hi : cat[i]? = some d) (hlen : d.length = .two) {op : Op32} (hop : d.matches op = true) {p : Params}
    {c : Cfg} (hmode : d.mode.accepts (activeMode p c) = true) :
    ∃ j e, cat[j]? = some e ∧ Accepted (activeMode p c) .two (op &&& 0xFFFF#32) e ∧
      (j = i ∨ (j < i ∧ (j, i) ∈ allow)) ∧
      decodeWindow p c cat (Window.ofBytes (bytesOf op .two)) 4 = finish p c j e (op &&& 0xFFFF#32) := by
  have hwf : d.wf = true := ((firstBad_eq_none_iff allow 0 cat).mp hcat).1 d (List.mem_of_getElem? hi)
  obtain ⟨j, e, hpass, hj⟩ := exists_pass_of_valid hcat hi (matches_low_half hwf hlen hop) hmode
  rw [hlen] at hpass
  obtain ⟨hje, hacc, -⟩ := (pass_eq_some_iff _ _ _ _ _ _ _).mp hpass
  refine ⟨j, e, hje, hacc, hj, ?_⟩
  rw [← opcode_two_of_bytes_two] at hpass ⊢
  exact decodeWindow_of_pass_two hpass (by omega)

/-- The bytes of a value that a 4-byte row matches are finished by a 2-byte row that takes the first word, and else by
that row or an allow-listed one before it (40_dispatch.md R107). -/
theorem decodeWindow_bytes_four {cat : Catalog} {allow : List (Nat × Nat)} (hcat : cat.valid allow) {i : Nat}
    {d : Descriptor} (hi : cat[i]? = some d) (hlen : d.length = .four) {op : Op32} (hop : d.matches op = true) {p : Params}
    {c : Cfg} (hmode : d.mode.accepts (activeMode p c) = true) :
    (∃ j e, cat[j]? = some e ∧ Accepted (activeMode p c) .two (op >>> 16) e ∧
      decodeWindow p c cat (Window.ofBytes (bytesOf op .four)) 4 = finish p c j e (op >>> 16)) ∨
    ∃ j e, cat[j]? = some e ∧ Accepted (activeMode p c) .four op e ∧ (j = i ∨ (j < i ∧ (j, i) ∈ allow)) ∧
      decodeWindow p c cat (Window.ofBytes (bytesOf op .four)) 4 = finish p c j e op := by
  have hop32 : (Window.ofBytes (bytesOf op .four)).opcode .four = op := opcode32_bytesOf op
  cases h16 : pass p c cat .two ((Window.ofBytes (bytesOf op .four)).opcode .two) with
  | some je =>
    obtain ⟨j, e⟩ := je
    obtain ⟨hje, hacc, -⟩ := (pass_eq_some_iff _ _ _ _ _ _ _).mp h16
    rw [← opcode_two_of_bytes_four]
    exact .inl ⟨j, e, hje, hacc, decodeWindow_of_pass_two h16 (by omega)⟩
  | none =>
    obtain ⟨j, e, hpass, hj⟩ := exists_pass_of_valid hcat hi hop hmode
    rw [hlen] at hpass
    obtain ⟨hje, hacc, -⟩ := (pass_eq_some_iff _ _ _ _ _ _ _).mp hpass
    have hdecode := decodeWindow_of_pass_four h16 (hop32.symm ▸ hpass) (n := 4) (by omega)
    rw [hop32] at hdecode
    exact .inr ⟨j, e, hje, hacc, hj, hdecode⟩

/-- Settles O14: the dispatcher finishes one accepted row on the opcode value of its pass, and a finish has two
outcomes. -/
theorem matchingPropertyOfValidCatalogs : Obligations.MatchingPropertyOfValidCatalogs := by
  intro p c cat allow i d op hcat hi hop hmode
  cases hlen : d.length with
  | two =>
    obtain ⟨j, e, hje, hacc, hj, hdecode⟩ := decodeWindow_bytes_two hcat hi hlen hop hmode
    have helen : e.length = .two := hacc.1
    exact ⟨j, e, op &&& 0xFFFF#32, hje, helen ▸ hacc, hj.imp id fun h => .inl ⟨h.1, helen, h.2⟩, rfl,
      hdecode ▸ finish_outcome p c j e _⟩
  | four =>
    obtain ⟨j, e, hje, hacc, hdecode⟩ | ⟨j, e, hje, hacc, hj, hdecode⟩ :=
      decodeWindow_bytes_four hcat hi hlen hop hmode
    · have helen : e.length = .two := hacc.1
      exact ⟨j, e, op >>> 16, hje, helen ▸ hacc, .inr (.inr ⟨rfl, helen⟩), by rw [helen],
        hdecode ▸ finish_outcome p c j e _⟩
    · have helen : e.length = .four := hacc.1
      exact ⟨j, e, op, hje, helen ▸ hacc, hj.imp id fun h => .inl ⟨h.1, helen, h.2⟩, by rw [helen],
        hdecode ▸ finish_outcome p c j e _⟩

/-! ### The encoder after the dispatcher -/

theorem opcode_two_toNat (w : Window) : (w.opcode .two).toNat = w.w1.toNat * 2 ^ 8 + w.w0.toNat := by
  have hlt := w.opcode16.isLt
  rw [Window.opcode, BitVec.toNat_setWidth, ← opcode16_toNat]
  omega

/-- The bytes of the 16-bit opcode value are the first two bytes of the window (20_memory.md R47). -/
theorem bytesOf_opcode_two (w : Window) : bytesOf (w.opcode .two) .two = [w.w0, w.w1] := by
  have h0 := w.w0.isLt
  have h1 := w.w1.isLt
  simp only [bytesOf, List.cons.injEq, and_true]
  refine ⟨?_, ?_⟩ <;> apply BitVec.eq_of_toNat_eq <;>
    rw [BitVec.extractLsb'_toNat, Nat.shiftRight_eq_div_pow, opcode_two_toNat] <;> omega

/-- The bytes of the 32-bit opcode value are the four bytes of the window (20_memory.md R48). -/
theorem bytesOf_opcode_four (w : Window) : bytesOf (w.opcode .four) .four = [w.w0, w.w1, w.w2, w.w3] := by
  have h0 := w.w0.isLt
  have h1 := w.w1.isLt
  have h2 := w.w2.isLt
  have h3 := w.w3.isLt
  simp only [bytesOf, List.cons.injEq, and_true]
  refine ⟨?_, ?_, ?_, ?_⟩ <;> apply BitVec.eq_of_toNat_eq <;>
    rw [BitVec.extractLsb'_toNat, Nat.shiftRight_eq_div_pow, Window.opcode, opcode32_toNat] <;> omega

/-- All bits of the fields of a list (30_encoding.md R68). -/
def fieldBits (fs : List Field) : Op32 := fs.foldr (fun f b => f.bits ||| b) 0

/-- Setting a field to the value it reads in `op` copies the field's bits from `op` (30_encoding.md R71, R72). -/
theorem set_get (f : Field) (t op : Op32) : f.set t (f.get op) = t ||| (op &&& f.bits) := by
  rw [Field.set]
  congr 1
  apply BitVec.eq_of_getLsbD_eq
  intro i hi
  rw [BitVec.getLsbD_and, Field.bits, BitVec.getLsbD_ofNat, BitVec.getLsbD_ofNat, Nat.testBit_shiftLeft,
    Nat.testBit_shiftLeft, Nat.testBit_and, testBit_get, Nat.testBit_two_pow_sub_one]
  by_cases hlo : f.lo ≤ i
  · simp [hi, hlo]
  · simp [hlo]

theorem foldl_set_get (fs : List Field) (t op : Op32) :
    fs.foldl (fun t f => f.set t (f.get op)) t = t ||| (op &&& fieldBits fs) := by
  induction fs generalizing t with
  | nil => simp [fieldBits]
  | cons f rest ih =>
    rw [List.foldl_cons, ih, set_get, BitVec.or_assoc, ← BitVec.and_or_distrib_left]
    rfl

/-- The operands that a row reads in an opcode value, in field order. -/
def Descriptor.operandValues (d : Descriptor) (op : Op32) : List Nat :=
  d.fields.map (fun f => (bitsAt f.lo f.width op).toNat)

theorem toNat_bitsAt (f : Field) (op : Op32) : (bitsAt f.lo f.width op).toNat = f.get op := by
  rw [bitsAt, BitVec.extractLsb'_toNat, Field.get, Nat.and_two_pow_sub_one_eq_mod]

/-- A value that matches a row is assembled from its own operands, but for bits that the row does not look at. -/
theorem assemble_operandValues {d : Descriptor} {op : Op32} (hop : d.matches op = true) :
    d.assemble (d.operandValues op) = op &&& (d.mask ||| fieldBits d.fields) := by
  have hzip : d.fields.zip (d.operandValues op) = d.fields.map (fun f => (f, f.get op)) := by
    simp only [Descriptor.operandValues, toNat_bitsAt]
    simpa using List.zip_map' (f := id) (g := fun f : Field => f.get op) (l := d.fields)
  have hmatch : op &&& d.mask = d.opcode := of_decide_eq_true hop
  rw [Descriptor.assemble, hzip, List.foldl_map, foldl_set_get, BitVec.and_or_distrib_left, hmatch]

/-- Mask and fields of every row of the default catalog fill the encoding (44_catalog.md section 2). -/
theorem catalogGK_covers : ∀ d ∈ catalogGK,
    d.mask ||| fieldBits d.fields = (if d.length = .two then 0xFFFF#32 else BitVec.allOnes 32) := by decide

theorem opcode_two_lt (w : Window) : (w.opcode .two).toNat < 2 ^ 16 := by
  have h0 := w.w0.isLt
  have h1 := w.w1.isLt
  rw [opcode_two_toNat]
  omega

/-- The opcode value of a window that a row of the default catalog matches is the row's word for its operands. -/
theorem assemble_opcode {d : Descriptor} (hd : d ∈ catalogGK) {w : Window} (hw : d.matches (w.opcode d.length) = true) :
    d.assemble (d.operandValues (w.opcode d.length)) = w.opcode d.length := by
  rw [assemble_operandValues hw, catalogGK_covers d hd]
  cases hlen : d.length with
  | two => exact and_low_half_of_lt (opcode_two_lt w)
  | four => exact BitVec.and_allOnes

/-- Every row of the default catalog and every opcode value stand for an instruction, whose row it is and whose operands
are those the row reads (44_catalog.md R195 to R225). -/
theorem exists_instrOf {d : Descriptor} (hd : d ∈ catalogGK) (op : Op32) :
    ∃ i, instrOf d op = some i ∧ i.selects = isRow d ∧ i.wordIn d = d.assemble (d.operandValues op) := by
  simp only [catalogGK, List.cons_append, List.nil_append, List.mem_cons, List.not_mem_nil, or_false] at hd
  rcases hd with rfl | rfl | rfl | rfl | rfl | rfl | rfl | rfl | rfl | rfl | rfl | rfl | rfl | rfl | rfl | rfl | rfl |
    rfl | rfl | rfl | rfl | rfl | rfl | rfl | rfl | rfl | rfl | rfl | rfl | rfl | rfl
  all_goals exact ⟨_, rfl, rfl, rfl⟩

/-- A record of the default catalog is well formed as an instruction: its location bytes resolve, and CLRC and SETC of INTM
alone, whose words are 0x2910 and 0x3B10, are taken by the rows EINT and DINT before them (30_encoding.md R82, R90). -/
theorem wellFormed_of_pass {p : Params} {c : Cfg} {op : Op32} {k : Nat} {d : Descriptor} {r : Decoded} {i : Instr}
    (hpass : pass p c catalogGK d.length op = some (k, d)) (hfin : finish p c k d op = .ok r)
    (hterm : instrOf d op = some i) (hselects : i.selects = isRow d) (hword : i.wordIn d = op) :
    i.wellFormed p c.amode = true := by
  have hd : d ∈ catalogGK := List.mem_of_getElem? ((findRow_eq_some _ _ _ _).mp hpass).1
  have hrow : i.selects d = true := by simp [hselects, isRow]
  obtain ⟨locs, hlocs, -⟩ := (finish_eq_ok _ _ _ _ _ _).mp hfin
  have hlocOk : ∀ f ∈ d.fields, ∀ w, IsLoc f w → locOk p c.amode w (locByte f op) = true := fun f hf w hw =>
    Option.isSome_iff_ne_none.mpr ((extractField_isOk_iff p c op f).mp ((extractLocs_eq_ok hlocs).1 f hf) w hw)
  cases i with
  | clrc m | setc m =>
    obtain rfl := of_decide_eq_true hrow
    refine bne_iff_ne.mpr fun hm => ?_
    subst hm hword
    -- the pass over this word ends at the row before, EINT or DINT
    cases hpass
  | rptLoc | movAlLoc | movAhLoc | movLocAl | movLocAh =>
    obtain rfl := of_decide_eq_true hrow
    cases hterm
    exact (bitsAt_eq_ofNat_get (fieldLoc8 .loc16) op) ▸ hlocOk _ (List.mem_singleton_self _) .w16 (.inl ⟨rfl, rfl⟩)
  | movlAccLoc =>
    obtain rfl := of_decide_eq_true hrow
    cases hterm
    exact (bitsAt_eq_ofNat_get (fieldLoc8 .loc32) op) ▸ hlocOk _ (List.mem_singleton_self _) .w32 (.inr ⟨rfl, rfl⟩)
  | inLoc =>
    obtain rfl := of_decide_eq_true hrow
    cases hterm
    exact (bitsAt_eq_ofNat_get ⟨"loc", 16, 8, .loc16⟩ op) ▸ hlocOk _ List.mem_cons_self .w16 (.inl ⟨rfl, rfl⟩)
  | loopz | loopnz | rptb | xbArp | xbCond | xcallArp | xretc | lcXar7 | lcrXar | sbf | bar | bf | intr =>
    simp only [Instr.selects] at hrow
    exfalso
    clear * - hd hrow
    revert d
    decide
  | _ => rfl

theorem catalogGK_nodup : catalogGK.Nodup := by decide

/-- Each row of the default catalog has one index. -/
theorem findRow_isRow_catalogGK {k : Nat} {d : Descriptor} (hk : catalogGK[k]? = some d) :
    findRow (isRow d) catalogGK 0 = some (k, d) := by
  obtain ⟨j, hfind⟩ := findRow_isRow (List.mem_of_getElem? hk)
  obtain ⟨hj, -, -⟩ := (findRow_eq_some _ _ _ _).mp hfind
  obtain ⟨hlt, -⟩ := List.getElem?_eq_some_iff.mp hj
  obtain rfl : j = k := (List.getElem?_inj hlt catalogGK_nodup).mp (hj.trans hk.symm)
  exact hfind

/-- Settles O17: the accepted row and the opcode value stand for an instruction, whose word in that row is the opcode value
again, since mask and fields fill the encoding. -/
theorem encodeOfDecodeIsTheBytesRead : Obligations.EncodeOfDecodeIsTheBytesRead := by
  intro p c w n r hr
  obtain ⟨d, hpass, hfin⟩ := decodeWindow_eq_ok p c catalogGK w n r hr
  obtain ⟨hk, ⟨hlen, hmatch, -⟩, -⟩ := (pass_eq_some_iff _ _ _ _ _ _ _).mp hpass
  have hd : d ∈ catalogGK := List.mem_of_getElem? hk
  rw [← hlen] at hpass hfin hmatch
  obtain ⟨i, hterm, hselects, hword⟩ := exists_instrOf hd (w.opcode d.length)
  rw [assemble_opcode hd (decide_eq_true hmatch)] at hword
  have hfind : findRow i.selects catalogGK 0 = some (r.desc, d) := hselects ▸ findRow_isRow_catalogGK hk
  refine ⟨i, ?_, wellFormed_of_pass hpass hfin hterm hselects hword, ?_⟩
  · rw [decodeInstr, hr]
    exact congrArg Except.ok (identify_of_finish hfind (hword.symm ▸ hterm) (hword.symm ▸ hfin))
  · have hbytes : encode i = bytesOf (w.opcode d.length) d.length := by simp [encode, encodeIn, hfind, hword]
    rw [hbytes, ← hlen]
    cases d.length with
    | two => exact bytesOf_opcode_two w
    | four => exact bytesOf_opcode_four w

end Sys2Proof

/-! SUPPORT. Sys2Proof/Proofs/Addressing.lean: the resolver's priority search as a table over the four quarters of the byte
space, the bytes that fail, what the mode changes, and the resolve call (41_addressing.md). -/

namespace Sys2Proof

/-! ### The rows of the table -/

@[simp] theorem firstHit_rowIf (c : Bool) (l : Loc) (vs : List Verdict) :
    firstHit (rowIf c l :: vs) = if c then some l else firstHit vs := by
  cases c <;> rfl

/-- In mode 0 a decorated row ends the search in failure (41_addressing.md R136). -/
@[simp] theorem firstHit_decorated (m c : Bool) (l : Loc) (vs : List Verdict) :
    firstHit (decorated m c l :: vs) = if c then (if m then some l else none) else firstHit vs := by
  cases c <;> cases m <;> rfl

/-! ### Slices of a location byte

A byte is its quarter `b[7:6]`, the sub-code `locK b` and the select `locN b`. -/

/-- A pattern is met where its two parts are met. -/
theorem append_beq {v w : Nat} (x : BitVec v) (y : BitVec w) (z : BitVec (v + w)) :
    (x ++ y == z) = (x == z.extractLsb' w v && y == z.extractLsb' 0 w) := by
  rw [Bool.eq_iff_iff, Bool.and_eq_true, beq_iff_eq, beq_iff_eq, beq_iff_eq]
  constructor
  · rintro rfl
    exact ⟨BitVec.extractLsb'_append_eq_left.symm, BitVec.extractLsb'_append_eq_right.symm⟩
  · rintro ⟨rfl, rfl⟩
    exact BitVec.extractLsb'_append_extractLsb'

theorem locPrefix_eq_append (b : Byte) : locPrefix b = b.extractLsb' 6 2 ++ locK b :=
  (BitVec.extractLsb'_append_extractLsb'_eq_extractLsb' (start₁ := 3) (len₁ := 3) (len₂ := 2) rfl).symm

theorem eq_locPrefix_append (b : Byte) : b = locPrefix b ++ locN b :=
  (BitVec.extractLsb'_append_extractLsb' (w := 5) (len := 3)).symm

/-- The test of a five-bit pattern, slice by slice. -/
theorem locPrefix_beq (b : Byte) (c : BitVec 5) :
    (locPrefix b == c) = (b.extractLsb' 6 2 == c.extractLsb' 3 2 && locK b == c.extractLsb' 0 3) := by
  rw [locPrefix_eq_append]
  exact append_beq _ _ _

/-- The test of a one-byte pattern, its five high bits first. -/
theorem byte_beq (b x : Byte) : (b == x) = (locPrefix b == x.extractLsb' 3 5 && locN b == x.extractLsb' 0 3) := by
  conv_lhs => rw [eq_locPrefix_append b]
  exact append_beq _ _ _

/-- The top bit is that of the quarter. -/
theorem extractLsb'_top_bit (b : Byte) : b.extractLsb' 7 1 = (b.extractLsb' 6 2).extractLsb' 1 1 := by
  ext i hi
  obtain rfl : i = 0 := Nat.lt_one_iff.mp hi
  simp [BitVec.getElem_extractLsb']

/-- Either quarter of the direct forms has a clear top bit. -/
theorem extractLsb'_top_bit_of_direct {b : Byte} (h : b.extractLsb' 6 2 = 0b00#2 ∨ b.extractLsb' 6 2 = 0b01#2) :
    b.extractLsb' 7 1 = 0b0#1 := by
  rw [extractLsb'_top_bit]
  obtain h | h := h <;> rw [h] <;> rfl

/-- A byte as the number its three slices make. -/
theorem toNat_eq_slices (b : Byte) :
    b.toNat = (b.extractLsb' 6 2).toNat * 64 + (locK b).toNat * 8 + (locN b).toNat := by
  conv_lhs => rw [eq_locPrefix_append b, locPrefix_eq_append b]
  rw [toNat_append_eq_mul_add, toNat_append_eq_mul_add]
  ring

/-! ### The byte ranges of R147 and R148 by their slices -/

theorem le_0x7F_iff (b : Byte) : b ≤ 0x7F ↔ b.extractLsb' 6 2 = 0b00#2 ∨ b.extractLsb' 6 2 = 0b01#2 := by
  have hb := toNat_eq_slices b
  bv_omega

theorem between_0x40_0x7F_iff (b : Byte) : 0x40 ≤ b ∧ b ≤ 0x7F ↔ b.extractLsb' 6 2 = 0b01#2 := by
  have hb := toNat_eq_slices b
  bv_omega

theorem eq_0xA8_or_0xAA_or_0xAD_iff (b : Byte) :
    b = 0xA8 ∨ b = 0xAA ∨ b = 0xAD ↔
      b.extractLsb' 6 2 = 0b10#2 ∧ locK b = 5#3 ∧ (locN b = 0#3 ∨ locN b = 2#3 ∨ locN b = 5#3) := by
  have hb := toNat_eq_slices b
  bv_omega

theorem eq_0xBF_iff (b : Byte) : b = 0xBF ↔ b.extractLsb' 6 2 = 0b10#2 ∧ locK b = 7#3 ∧ locN b = 7#3 := by
  have hb := toNat_eq_slices b
  bv_omega

theorem between_0xC8_0xF7_iff (b : Byte) :
    0xC8 ≤ b ∧ b ≤ 0xF7 ↔ b.extractLsb' 6 2 = 0b11#2 ∧ ¬ (locK b = 0#3 ∨ locK b = 7#3) := by
  have hb := toNat_eq_slices b
  bv_omega

theorem between_0xC0_0xC7_or_0xF8_le_iff (b : Byte) :
    0xC0 ≤ b ∧ b ≤ 0xC7 ∨ 0xF8 ≤ b ↔ b.extractLsb' 6 2 = 0b11#2 ∧ (locK b = 0#3 ∨ locK b = 7#3) := by
  have hb := toNat_eq_slices b
  bv_omega

theorem quarter_cases (q : BitVec 2) : q = 0b00#2 ∨ q = 0b01#2 ∨ q = 0b10#2 ∨ q = 0b11#2 := by
  revert q
  decide

/-! ### The four quarters -/

section Quarters

variable (p : Params) (m : Bool) (w : LocWidth) {b : Byte}

theorem resolve_direct6 (h : b.extractLsb' 6 2 = 0b00#2) :
    resolve p false w b = some (.directDp6 (b.extractLsb' 0 6)) := by
  simp [resolve, locRows, locCat1, h]

theorem resolve_direct7 (hp : p.directMode1Bits = .seven) (h : b.extractLsb' 7 1 = 0b0#1) :
    resolve p true w b = some (.directDp7 (b.extractLsb' 0 7)) := by
  simp [resolve, locRows, locCat1, h, hp]

theorem resolve_direct7_six (hp : p.directMode1Bits = .six) (h : b.extractLsb' 6 2 = 0b00#2) :
    resolve p true w b = some (.directDp7 ((b.extractLsb' 0 6).setWidth 7)) := by
  simp [resolve, locRows, locCat1, h, hp]

theorem resolve_stack (h : b.extractLsb' 6 2 = 0b01#2) :
    resolve p false w b = some (.stackNeg6 (b.extractLsb' 0 6)) := by
  cases hp : p.directMode1Bits <;> simp [resolve, locRows, locCat1, locCat2, h, hp]

/-- The forms of the bytes `10kkknnn` (41_addressing.md R121 to R126, R128 to R135, R143 to R146). -/
def sharedForm (m : Bool) (w : LocWidth) (k n : BitVec 3) : Option Loc :=
  match k with
  | 0 => some (.xarPostInc n)
  | 1 => some (.xarPreDec n)
  | 2 => some (.xarIdxAr0 n)
  | 3 => some (.xarIdxAr1 n)
  | 4 =>
    match w with
    | .w16 => some (.reg16 (.ar n))
    | .w32 => some (.reg32 (.xar n))
  | 5 =>
    match n, w with
    | 0, .w16 => some (.reg16 .ah)
    | 1, .w16 => some (.reg16 .al)
    | 2, .w16 => some (.reg16 .ph)
    | 3, .w16 => some (.reg16 .pl)
    | 4, .w16 => some (.reg16 .th)
    | 5, .w16 => some (.reg16 .sp)
    | 1, .w32 => some (.reg32 .acc)
    | 3, .w32 => some (.reg32 .p)
    | 4, .w32 => some (.reg32 .xt)
    | 6, _ => some .arpBr0PostInc
    | 7, _ => some .arpBr0PostDec
    | _, _ => none
  | 6 => some (.arpSet n)
  | _ =>
    match n with
    | 0 => some .arpInd
    | 1 => some .arpPostInc
    | 2 => some .arpPostDec
    | 3 => some .arpPostIncAr0
    | 4 => some .arpPostDecAr0
    | 5 => some .spPostInc
    | 6 => some .spPreDec
    | _ => if m then some .circXar6Ar1 else some .circAr6

/-- The rows that can take a byte of this quarter depend on no parameter and share no byte: the first row that fits is
the only one. -/
theorem resolve_shared (h : b.extractLsb' 6 2 = 0b10#2) :
    resolve p m w b = sharedForm m w (locK b) (locN b) := by
  cases hd : p.directMode1Bits <;> cases ha : p.arpDecorPriority <;> cases w
  all_goals
    simp only [resolve, locRows, locCat1, locCat2, locCat3, locCat4, locCat5, locCat6, locCat7, locCat8, locCat9,
      locCat10, List.cons_append, List.nil_append, firstHit_rowIf, firstHit_decorated, firstHit, byte_beq, locPrefix_beq,
      extractLsb'_top_bit, h, hd, ha, BitVec.reduceExtractLsb', BitVec.reduceBEq, Bool.and_false, Bool.true_and,
      Bool.false_and, Bool.false_eq_true, if_false]
    generalize locK b = k, locN b = n
    revert m k n
    decide

/-- The decorated forms of the bytes `11kkknnn` (41_addressing.md R137 to R142). -/
def decoratedForm (k n : BitVec 3) : Option Loc :=
  match k with
  | 1 => some (.arpSetPostInc n)
  | 2 => some (.arpSetPostDec n)
  | 3 => some (.arpSetPostIncAr0 n)
  | 4 => some (.arpSetPostDecAr0 n)
  | 5 => some (.arpSetBr0PostInc n)
  | 6 => some (.arpSetBr0PostDec n)
  | _ => none

/-- Only the two categories that `ARP_DECOR_PRIORITY` orders can take a byte of the last quarter; under
`DIRECT_MODE1_BITS = 6` nothing more can take one of the second quarter in mode 1. -/
theorem resolve_upper (h : b.extractLsb' 6 2 = 0b11#2 ∨
      b.extractLsb' 6 2 = 0b01#2 ∧ m = true ∧ p.directMode1Bits = .six) :
    resolve p m w b = firstHit (if p.arpDecorPriority = .afterCat5 then locCat5 m b ++ locCat8 m b
      else locCat8 m b ++ locCat5 m b) := by
  obtain h | ⟨h, rfl, hd⟩ := h
  · cases hd : p.directMode1Bits <;> cases ha : p.arpDecorPriority <;> cases w <;>
      simp [resolve, locRows, locCat1, locCat2, locCat3, locCat4, locCat5, locCat6, locCat7, locCat8, locCat9, locCat10,
        byte_beq, locPrefix_beq, extractLsb'_top_bit, h, hd, ha, firstHit, -beq_iff_eq]
  · cases ha : p.arpDecorPriority <;> cases w <;>
      simp [resolve, locRows, locCat1, locCat2, locCat3, locCat4, locCat5, locCat6, locCat7, locCat8, locCat9, locCat10,
        byte_beq, locPrefix_beq, h, hd, ha, firstHit, -beq_iff_eq]

/-- The row that took these bytes in mode 1 is gone, and the stack row is of mode 0 (41_addressing.md R119, R120). -/
theorem resolve_second_quarter_six (hp : p.directMode1Bits = .six) (h : b.extractLsb' 6 2 = 0b01#2) :
    resolve p true w b = none := by
  rw [resolve_upper p true w (.inr ⟨h, rfl, hp⟩)]
  split <;> simp [locCat5, locCat8, locPrefix_beq, h, firstHit, -beq_iff_eq]

theorem resolve_decorated (h : b.extractLsb' 6 2 = 0b11#2) :
    resolve p true w b = decoratedForm (locK b) (locN b) := by
  rw [resolve_upper p true w (.inl h)]
  split
  all_goals
    simp only [locCat5, locCat8, List.cons_append, List.nil_append, firstHit_rowIf, firstHit_decorated, firstHit,
      locPrefix_beq, h]
    generalize locK b = k, locN b = n
    revert k n
    decide

/-- In mode 0 the failing rows of category 8 take the bytes of category 5 where they stand before it (41_addressing.md
R136). -/
theorem resolve_offset3 (h : b.extractLsb' 6 2 = 0b11#2) :
    resolve p false w b =
      if p.arpDecorPriority = .afterCat5 ∨ locK b = 0#3 ∨ locK b = 7#3 then some (.xarOff3 (locN b) (locK b))
      else none := by
  rw [resolve_upper p false w (.inl h)]
  by_cases ha : p.arpDecorPriority = .afterCat5
  · simp [locCat5, h, ha]
  · simp only [locCat5, locCat8, List.cons_append, List.nil_append, firstHit_rowIf, firstHit_decorated, firstHit,
      locPrefix_beq, h, ha, if_false, false_or]
    clear h
    generalize locK b = k, locN b = n
    revert k n
    decide

end Quarters

/-! ### The forms by pattern

The slices of a pattern are its parts. -/

theorem quarter_append (q : BitVec 2) (o : BitVec 6) : (q ++ o : Byte).extractLsb' 6 2 = q :=
  BitVec.extractLsb'_append_eq_left

theorem offset_append (q : BitVec 2) (o : BitVec 6) : (q ++ o : Byte).extractLsb' 0 6 = o :=
  BitVec.extractLsb'_append_eq_right

theorem quarter_append_append (q : BitVec 2) (k n : BitVec 3) : (q ++ k ++ n : Byte).extractLsb' 6 2 = q :=
  (BitVec.extractLsb'_append_eq_of_le (start := 6) (by decide)).trans BitVec.extractLsb'_append_eq_left

theorem locK_append_append (q : BitVec 2) (k n : BitVec 3) : locK (q ++ k ++ n) = k :=
  (BitVec.extractLsb'_append_eq_of_le (start := 3) (by decide)).trans BitVec.extractLsb'_append_eq_right

theorem locN_append_append (q : BitVec 2) (k n : BitVec 3) : locN (q ++ k ++ n) = n :=
  BitVec.extractLsb'_append_eq_right

section Patterns

variable (p : Params) (m : Bool) (w : LocWidth) (k n : BitVec 3)

theorem resolve_direct6_append (o : BitVec 6) : resolve p false w (0b00#2 ++ o) = some (.directDp6 o) := by
  rw [resolve_direct6 p w (quarter_append _ o), offset_append]

theorem resolve_stack_append (o : BitVec 6) : resolve p false w (0b01#2 ++ o) = some (.stackNeg6 o) := by
  rw [resolve_stack p w (quarter_append _ o), offset_append]

theorem resolve_direct7_append (hp : p.directMode1Bits = .seven) (o : BitVec 7) :
    resolve p true w (0b0#1 ++ o) = some (.directDp7 o) :=
  (resolve_direct7 p w hp BitVec.extractLsb'_append_eq_left).trans
    (congrArg (fun o => some (Loc.directDp7 o)) BitVec.extractLsb'_append_eq_right)

theorem resolve_direct7_six_append (hp : p.directMode1Bits = .six) (o : BitVec 6) :
    resolve p true w (0b00#2 ++ o) = some (.directDp7 (0b0#1 ++ o)) := by
  rw [resolve_direct7_six p w hp (quarter_append _ o), offset_append, BitVec.setWidth_eq_append (by decide)]
  rfl

theorem resolve_shared_append : resolve p m w (0b10#2 ++ k ++ n) = sharedForm m w k n := by
  rw [resolve_shared p m w (quarter_append_append _ k n), locK_append_append, locN_append_append]

theorem resolve_decorated_append : resolve p true w (0b11#2 ++ k ++ n) = decoratedForm k n := by
  rw [resolve_decorated p w (quarter_append_append _ k n), locK_append_append, locN_append_append]

theorem resolve_offset3_append (hk : p.arpDecorPriority = .afterCat5 ∨ k = 0#3 ∨ k = 7#3) :
    resolve p false w (0b11#2 ++ k ++ n) = some (.xarOff3 n k) := by
  rw [resolve_offset3 p w (quarter_append_append _ k n), locK_append_append, locN_append_append, if_pos hk]

end Patterns

/-- Settles O19: each pattern fixes its quarter and, above the direct forms, the sub-code, which the laws of the quarters
read. -/
theorem resolverFormsByPattern : Obligations.ResolverFormsByPattern := by
  intro p m w n k o6 o7
  exact ⟨resolve_direct6_append p w o6, (resolve_direct7_append p w · o7), (resolve_direct7_six_append p w · o6),
    resolve_stack_append p w o6,
    resolve_shared_append p m w 7 5, resolve_shared_append p m w 7 6,
    resolve_shared_append p m w 0 n, resolve_shared_append p m w 1 n,
    resolve_shared_append p m w 2 n, resolve_shared_append p m w 3 n, resolve_offset3_append p w k n,
    resolve_shared_append p m w 7 0, resolve_shared_append p m w 7 1, resolve_shared_append p m w 7 2,
    resolve_shared_append p m w 7 3, resolve_shared_append p m w 7 4,
    resolve_shared_append p m w 5 6, resolve_shared_append p m w 5 7,
    resolve_shared_append p m w 6 n,
    resolve_decorated_append p w 1 n, resolve_decorated_append p w 2 n, resolve_decorated_append p w 3 n,
    resolve_decorated_append p w 4 n, resolve_decorated_append p w 5 n, resolve_decorated_append p w 6 n,
    resolve_shared_append p false w 7 7, resolve_shared_append p true w 7 7,
    resolve_shared_append p m .w16 4 n,
    resolve_shared_append p m .w16 5 0, resolve_shared_append p m .w16 5 1, resolve_shared_append p m .w16 5 2,
    resolve_shared_append p m .w16 5 3, resolve_shared_append p m .w16 5 4, resolve_shared_append p m .w16 5 5,
    resolve_shared_append p m .w32 4 n,
    resolve_shared_append p m .w32 5 1, resolve_shared_append p m .w32 5 3, resolve_shared_append p m .w32 5 4⟩

/-- Settles O59: the form of each pattern is that of `resolverFormsByPattern`, with its record and its tokens. -/
theorem formsHaveTheListedRecordsAndTokens : Obligations.FormsHaveTheListedRecordsAndTokens := by
  intro p m w n k o6 o7
  have hwide : (0b0#1 ++ o6).toNat = o6.toNat := by rw [toNat_append_eq_mul_add, BitVec.toNat_ofNat]; omega
  obtain ⟨direct6, direct7, direct7six, stack, spInc, spDec, xarInc, xarDec, xarAr0, xarAr1, offset3, arpInd, arpInc,
    arpDec, arpIncAr0, arpDecAr0, br0Inc, br0Dec, arpSet, setInc, setDec, setIncAr0, setDecAr0, setBr0Inc, setBr0Dec,
    circAr6, circXar6, ar, ah, al, ph, pl, th, sp, xar, acc, pReg, xt⟩ := resolverFormsByPattern p m w n k o6 o7
  refine ⟨⟨_, direct6, rfl, rfl⟩, fun h => ⟨_, direct7 h, rfl, rfl⟩, fun h => ⟨_, direct7six h, ?_, ?_⟩,
    ⟨_, stack, rfl, rfl⟩, ⟨_, spInc, rfl, rfl⟩, ⟨_, spDec, rfl, rfl⟩, ⟨_, xarInc, rfl, rfl⟩, ⟨_, xarDec, rfl, rfl⟩,
    ⟨_, xarAr0, rfl, rfl⟩, ⟨_, xarAr1, rfl, rfl⟩, fun h => ⟨_, offset3 h, rfl, rfl⟩, ⟨_, arpInd, rfl, rfl⟩,
    ⟨_, arpInc, rfl, rfl⟩, ⟨_, arpDec, rfl, rfl⟩, ⟨_, arpIncAr0, rfl, rfl⟩, ⟨_, arpDecAr0, rfl, rfl⟩,
    ⟨_, br0Inc, rfl, rfl⟩, ⟨_, br0Dec, rfl, rfl⟩, ⟨_, arpSet, rfl, rfl⟩, ⟨_, setInc, rfl, rfl⟩, ⟨_, setDec, rfl, rfl⟩,
    ⟨_, setIncAr0, rfl, rfl⟩, ⟨_, setDecAr0, rfl, rfl⟩, ⟨_, setBr0Inc, rfl, rfl⟩, ⟨_, setBr0Dec, rfl, rfl⟩,
    ⟨_, circAr6, rfl, rfl⟩, ⟨_, circXar6, rfl, rfl⟩, ⟨_, ar, rfl, rfl⟩, ?_, ⟨_, xar, rfl, rfl⟩, ?_⟩
  · exact congrArg (fun o => ({ form := .directDp7, offset := some o } : AddressingDescriptor)) hwide
  · exact congrArg (fun o => [textToken "@@", textToken (hex o)]) hwide
  · intro b g t hmem
    simp only [List.mem_cons, Prod.mk.injEq, List.not_mem_nil, or_false] at hmem
    obtain ⟨rfl, rfl, rfl⟩ | ⟨rfl, rfl, rfl⟩ | ⟨rfl, rfl, rfl⟩ | ⟨rfl, rfl, rfl⟩ | ⟨rfl, rfl, rfl⟩ | ⟨rfl, rfl, rfl⟩ :=
      hmem
    exacts [⟨_, ah, rfl, rfl⟩, ⟨_, al, rfl, rfl⟩, ⟨_, ph, rfl, rfl⟩, ⟨_, pl, rfl, rfl⟩, ⟨_, th, rfl, rfl⟩,
      ⟨_, sp, rfl, rfl⟩]
  · intro b g t hmem
    simp only [List.mem_cons, Prod.mk.injEq, List.not_mem_nil, or_false] at hmem
    obtain ⟨rfl, rfl, rfl⟩ | ⟨rfl, rfl, rfl⟩ | ⟨rfl, rfl, rfl⟩ := hmem
    exacts [⟨_, acc, rfl, rfl⟩, ⟨_, pReg, rfl, rfl⟩, ⟨_, xt, rfl, rfl⟩]

/-! ### The bytes that fail, and what the mode changes -/

theorem sharedForm_eq_none_iff (m : Bool) (w : LocWidth) (k n : BitVec 3) :
    sharedForm m w k n = none ↔ w = .w32 ∧ k = 5#3 ∧ (n = 0#3 ∨ n = 2#3 ∨ n = 5#3) := by
  cases w <;> revert m k n <;> decide

theorem decoratedForm_eq_none_iff (k n : BitVec 3) : decoratedForm k n = none ↔ k = 0#3 ∨ k = 7#3 := by
  revert k n
  decide

/-- Of the shared bytes 0xBF alone has two forms, and it resolves in both modes. -/
theorem sharedForm_modes_iff (w : LocWidth) (k n : BitVec 3) :
    (sharedForm false w k n ≠ none ∧ sharedForm true w k n ≠ none ∧ sharedForm false w k n ≠ sharedForm true w k n) ↔
      k = 7#3 ∧ n = 7#3 := by
  cases w <;> revert k n <;> decide

/-- The offset form of mode 0 is no decorated form. -/
theorem offset3_decoratedForm_iff (k n : BitVec 3) :
    (some (Loc.xarOff3 n k) ≠ none ∧ decoratedForm k n ≠ none ∧ some (Loc.xarOff3 n k) ≠ decoratedForm k n) ↔
      ¬ (k = 0#3 ∨ k = 7#3) := by
  revert k n
  decide

/-- Settles O20: the ranges of R147 read as slices, and each quarter's law says when it gives no form. -/
theorem resolverFailsOnExactlyTheseBytes : Obligations.ResolverFailsOnExactlyTheseBytes := by
  intro p m w b
  rw [eq_0xA8_or_0xAA_or_0xAD_iff, between_0xC0_0xC7_or_0xF8_le_iff, between_0xC8_0xF7_iff, between_0x40_0x7F_iff]
  obtain h | h | h | h := quarter_cases (b.extractLsb' 6 2)
  · cases m with
    | false => simp [resolve_direct6 p w h, h]
    | true =>
      cases hd : p.directMode1Bits with
      | six => simp [resolve_direct7_six p w hd h, h]
      | seven => simp [resolve_direct7 p w hd (extractLsb'_top_bit_of_direct (.inl h)), h]
  · cases m with
    | false => simp [resolve_stack p w h, h]
    | true =>
      cases hd : p.directMode1Bits with
      | six => simp [resolve_second_quarter_six p w hd h, h]
      | seven => simp [resolve_direct7 p w hd (extractLsb'_top_bit_of_direct (.inr h)), h]
  · simp [resolve_shared p m w h, sharedForm_eq_none_iff, h]
  · cases m with
    | false => cases ha : p.arpDecorPriority <;> simp [resolve_offset3 p w h, h, ha]
    | true => simp [resolve_decorated p w h, decoratedForm_eq_none_iff, h]

theorem exists_some_ne_some_iff {α : Type} (x y : Option α) :
    (∃ l l', x = some l ∧ y = some l' ∧ l ≠ l') ↔ x ≠ none ∧ y ≠ none ∧ x ≠ y := by
  cases x <;> cases y <;> simp

/-- Settles O21: the forms are compared quarter by quarter; the bytes that fail are those of R147 in the two modes. -/
theorem resolverModeDependence : Obligations.ResolverModeDependence := by
  intro p w b ha hd
  have hfail0 : resolve p false w b = none ↔ w = .w32 ∧ (b = 0xA8 ∨ b = 0xAA ∨ b = 0xAD) := by
    simpa [ha, hd] using resolverFailsOnExactlyTheseBytes p false w b
  have hfail1 : resolve p true w b = none ↔
      w = .w32 ∧ (b = 0xA8 ∨ b = 0xAA ∨ b = 0xAD) ∨ (0xC0 ≤ b ∧ b ≤ 0xC7 ∨ 0xF8 ≤ b) := by
    simpa [ha, hd] using resolverFailsOnExactlyTheseBytes p true w b
  refine ⟨?_, ?_, fun h => hfail1.mpr (.inl (hfail0.mp h))⟩
  · rw [exists_some_ne_some_iff, le_0x7F_iff, eq_0xBF_iff, between_0xC8_0xF7_iff]
    obtain h | h | h | h := quarter_cases (b.extractLsb' 6 2)
    · simp [resolve_direct6 p w h, resolve_direct7 p w hd (extractLsb'_top_bit_of_direct (.inl h)), h]
    · simp [resolve_stack p w h, resolve_direct7 p w hd (extractLsb'_top_bit_of_direct (.inr h)), h]
    · rw [resolve_shared p false w h, resolve_shared p true w h, sharedForm_modes_iff]
      simp [h]
    · rw [resolve_offset3 p w h, resolve_decorated p w h, if_pos (.inl ha), offset3_decoratedForm_iff]
      simp [h]
  · rw [← Option.ne_none_iff_exists', Ne, hfail0, hfail1]
    constructor
    · rintro ⟨hsome, hnone | hnone⟩
      · exact absurd hnone hsome
      · exact hnone
    · exact fun hnone => ⟨fun ⟨_, hb⟩ => by bv_omega, .inr hnone⟩

end Sys2Proof

namespace Sys2Proof.Machine

/-- Settles O23: a resolve call has no record, and its answer is the form's record and tokens. -/
theorem resolveCallAnswers : Obligations.ResolveCallAnswers := by
  intro s b w rest hc
  have hstep : step s = .next (returned s rest (.resolved b w (resolveAnswer s.params s.cfg.amode w b))) := by
    simp [step, headRecord, serveOther, hc, State.answer, returned]
  constructor
  · intro l hl
    rw [hstep, resolveAnswer, hl, Option.map_some]
  · intro hnone
    rw [hstep, resolveAnswer, hnone, Option.map_none]

end Sys2Proof.Machine

/-! SUPPORT. Sys2Proof/Proofs/ControlFlow.lean: the edge set of each control-flow class, what a classify call returns
and inserts, and the progress of the engine from good states (42_control_flow.md). -/

namespace Sys2Proof

/-! ### The target and the edges of a class -/

section Edges

variable {p : Params} {d : Descriptor} {vals : Values} {v : Int} (a : Nat)

theorem relTarget_of_current (hb : d.relBase = some .current) (hv : valueOfKind d vals .rel = some v) :
    relTarget p d vals a = some (p.addrAdd a v) := by
  simp only [relTarget, hb, hv, relBaseAddr]

theorem relTarget_of_next (hb : d.relBase = some .next) (hv : valueOfKind d vals .rel = some v) :
    relTarget p d vals a = some (p.addrAdd (nextAddr p d a) v) := by
  simp only [relTarget, hb, hv, relBaseAddr]

theorem absTarget_of_value (hv : valueOfKind d vals .abs22 = some v) : absTarget p d vals = some (p.addrAdd 0 v) := by
  rw [absTarget, hv, Option.map_some]

theorem xbankTarget_of_value (hv : valueOfKind d vals .pma16 = some v) :
    xbankTarget p d vals = some (p.addrAdd p.xbank.toNat v) := by
  rw [xbankTarget, hv, Option.map_some]

end Edges

/-- A conditional class has the pair of R154 or, for the code `UNC`, the one record of R157. -/
theorem condEdges_cases (p : Params) (d : Descriptor) (vals : Values) (a t : Nat) :
    condEdges p d vals a t = [.unconditional t] ∨
      condEdges p d vals a t = [.taken t, .notTaken (nextAddr p d a)] := by
  unfold condEdges
  split
  · exact .inl rfl
  · exact .inr rfl

/-- The shapes of an edge set in canonical order (42_control_flow.md R167): no record, one that is no FALSE, or TRUE and
then FALSE. -/
inductive CanonicalEdges : List Edge → Prop
  | empty : CanonicalEdges []
  | one (e : Edge) (h : ∀ y, e ≠ .notTaken y) : CanonicalEdges [e]
  | pair (x y : Nat) : CanonicalEdges [.taken x, .notTaken y]

theorem condEdges_canonical (p : Params) (d : Descriptor) (vals : Values) (a t : Nat) :
    CanonicalEdges (condEdges p d vals a t) := by
  obtain h | h := condEdges_cases p d vals a t <;> rw [h]
  · exact .one _ nofun
  · exact .pair _ _

/-- Every class gives a canonical edge set (42_control_flow.md R153 to R164, R167, R169). -/
theorem edges_canonical {p : Params} {d : Descriptor} {vals : Values} {a : Nat} {es : List Edge}
    (h : edges p d vals a = some es) : CanonicalEdges es := by
  unfold edges at h
  cases hcl : d.cfClass <;> rw [hcl] at h
  case none | repeated =>
    cases h
    exact .empty
  case jumpAbs | jumpXbank | callAbs | callXbank =>
    obtain ⟨t, -, rfl⟩ := Option.map_eq_some_iff.mp h
    exact .one _ nofun
  case condRel | condXbank =>
    obtain ⟨t, -, rfl⟩ := Option.map_eq_some_iff.mp h
    exact condEdges_canonical p d vals a t
  case indBranch | indCall | ret | trap =>
    cases h
    exact .one _ nofun
  case loopWait =>
    cases h
    exact .pair _ _

/-- A call class has one edge, a call: nothing follows the calling instruction in its set (42_control_flow.md R158). -/
theorem edges_of_call_class {p : Params} {d : Descriptor} {vals : Values} {a : Nat} {es : List Edge}
    (hcl : d.cfClass = .callAbs ∨ d.cfClass = .callXbank ∨ d.cfClass = .indCall)
    (h : edges p d vals a = some es) : ∃ e, es = [e] ∧ (e = .indirectCall ∨ ∃ x, e = .call x) := by
  unfold edges at h
  obtain hcl | hcl | hcl := hcl <;> rw [hcl] at h
  case inr.inr =>
    cases h
    exact ⟨_, rfl, .inl rfl⟩
  all_goals
    obtain ⟨t, -, rfl⟩ := Option.map_eq_some_iff.mp h
    exact ⟨_, rfl, .inr ⟨t, rfl⟩⟩

end Sys2Proof

namespace Sys2Proof.Machine

/-! ### A step that classifies -/

/-- The converse of `step_next`: each way to serve the head's record is a step. -/
theorem step_of_served {r : Except Failure Decoded} {s t : State} (hr : ∀ q, headRecord s = some q → q = r)
    (h : Served r s t) : step s = .next t := by
  rw [step_eq_serve hr, serve_eq_next_iff]
  exact h

theorem headRecord_classify {s : State} {r : Decoded} {a : Nat} {rest : List Call}
    (hc : s.calls = .classify r a :: rest) : headRecord s = some (.ok r) := by
  simp [headRecord, hc]

theorem headRecord_render {s : State} {r : Decoded} {a : Nat} {rest : List Call}
    (hc : s.calls = .render r a :: rest) : headRecord s = some (.ok r) := by
  simp [headRecord, hc]

/-- A classify call whose class has its edges returns them, and inserts `next` for a repeat row
(42_control_flow.md R150, R164). -/
theorem step_of_edges {s : State} {r : Decoded} {a : Nat} {rest : List Call} {d : Descriptor} {es : List Edge}
    (hc : s.calls = .classify r a :: rest) (hd : s.catalog[r.desc]? = some d)
    (he : edges s.params d r.values (lines s a) = some es) :
    step s = .next { returned s rest (.classified (lines s a) d.length es) with
      rar := if d.cfClass = .repeated then rarInsert (nextAddr s.params d (lines s a)) s.rar else s.rar } := by
  rw [step_of_served (by simp [headRecord_classify hc]) (.classified r a rest r d es hc rfl hd he), noteRepeat_eq,
    State.answer, hc]
  rfl

/-- A step that returns an edge list has classified the record of a classify call at the head. -/
theorem classified_of_returns {s t : State} {A : Nat} {len : Len} {es : List Edge} (h : step s = .next t)
    (ht : t.returns = s.returns ++ [.classified A len es]) :
    ∃ r a rest d, s.calls = .classify r a :: rest ∧ s.catalog[r.desc]? = some d ∧
      edges s.params d r.values (s.params.addr a) = some es := by
  obtain ⟨x, hx, hs⟩ := step_next h
  cases hs with
  | classified q' a rest q d es' hc hr hd he =>
    obtain rfl : q' = q := Except.ok.inj ((hx _ (headRecord_classify hc)).trans hr)
    obtain ⟨-, -, rfl⟩ : s.params.addr a = A ∧ d.length = len ∧ es' = es := by simpa using ht
    exact ⟨q', a, rest, d, hc, hd, he⟩
  | _ => simp at ht

/-- The registry changes at a step only by the insert of a classify call of a repeat row (42_control_flow.md R164,
R168). -/
theorem step_rar_cases {s t : State} (h : step s = .next t) :
    (t.rar = s.rar ∧ ∀ r a rest d, s.calls = .classify r a :: rest → s.catalog[r.desc]? = some d →
        d.cfClass ≠ .repeated) ∨
    ∃ r a rest d, s.calls = .classify r a :: rest ∧ s.catalog[r.desc]? = some d ∧ d.cfClass = .repeated ∧
      t.rar = rarInsert (nextAddr s.params d (s.params.addr a)) s.rar := by
  obtain ⟨x, hx, hs⟩ := step_next h
  cases hs with
  | classified q' a rest q d es hc hr hd he =>
    obtain rfl : q' = q := Except.ok.inj ((hx _ (headRecord_classify hc)).trans hr)
    rw [answer_rar, noteRepeat_eq]
    by_cases hcl : d.cfClass = .repeated
    · exact .inr ⟨q', a, rest, d, hc, hd, hcl, if_pos hcl⟩
    · refine .inl ⟨if_neg hcl, fun r' a' rest' d' hc' hd' => ?_⟩
      cases hc.symm.trans hc'
      cases hd.symm.trans hd'
      exact hcl
  | failed c rest a f hc ha hr =>
    refine .inl ⟨rfl, fun r' a' rest' d' hc' _ => ?_⟩
    cases (hx _ (headRecord_classify hc')).trans hr
  | idle hc => exact .inl ⟨rfl, fun r' a' rest' d' hc' _ => by cases hc.symm.trans hc'⟩
  | resolved b w rest hc | decoded w n a rest q hc | analysed w n a rest q hc | unresolved q' a rest q d f hc
  | rendered q' a rest q d ts hc =>
    exact .inl ⟨rfl, fun r' a' rest' d' hc' _ => by cases hc.symm.trans hc'⟩

/-- Settles O45, by the one insert a step can make. -/
theorem onlyRepeatClassificationInserts : Obligations.OnlyRepeatClassificationInserts := by
  intro s t h x
  obtain ⟨hrar, hno⟩ | ⟨r, a, rest, d, hc, hd, hcl, hrar⟩ := step_rar_cases h
  · rw [hrar]
    refine ⟨.inl, ?_⟩
    rintro (hx | ⟨r, a, rest, d, hc, hd, hcl, -⟩)
    · exact hx
    · exact absurd hcl (hno r a rest d hc hd)
  · rw [hrar, mem_rarInsert]
    constructor
    · rintro (rfl | hx)
      · exact .inr ⟨r, a, rest, d, hc, hd, hcl, rfl⟩
      · exact .inl hx
    · rintro (hx | ⟨r', a', rest', d', hc', hd', -, rfl⟩)
      · exact .inr hx
      · cases hc.symm.trans hc'
        cases hd.symm.trans hd'
        exact .inl rfl

/-- Settles O49: the returned list is the edge set of the call's own row. -/
theorem callClassesReturnOneCallEdge : Obligations.CallClassesReturnOneCallEdge := by
  intro s t r a rest d len es hc hd hcl h ht
  obtain ⟨r', a', rest', d', hc', hd', he⟩ := classified_of_returns h ht
  cases hc.symm.trans hc'
  cases hd.symm.trans hd'
  exact edges_of_call_class hcl he

/-- Settles O50: a returned list is the edge set of some row, and so has one of three shapes. -/
theorem edgeSetsAreCanonical : Obligations.EdgeSetsAreCanonical := by
  intro s t A len es h ht
  obtain ⟨r, a, rest, d, -, -, he⟩ := classified_of_returns h ht
  cases edges_canonical he with
  | empty => simp
  | one e hne => simpa using hne
  | pair x y => simp

/-! ### The edges of each class -/

/-- The model's edges of a conditional form are the statements' own. -/
theorem condEdges_eq (s : State) (d : Descriptor) (vals : Values) (a t : Nat) :
    condEdges s.params d vals a t =
      conditionalEdges s (valueOfKind d vals .cond = some 15) t (nextAddr s.params d a) := by
  simp only [condEdges, conditionalEdges, Bool.and_eq_true, isUnc_iff]

/-- A conditional class has the pair or, for `UNC`, the one record, at the target it computes (42_control_flow.md R154,
R157, R169). -/
theorem edges_of_conditional {s : State} {d : Descriptor} {vals : Values} {a t : Nat}
    (hcl : d.cfClass = .condRel ∨ d.cfClass = .condXbank) (ht : target s.params d vals a = some t) :
    edges s.params d vals a =
      some (conditionalEdges s (valueOfKind d vals .cond = some 15) t (nextAddr s.params d a)) := by
  rw [← condEdges_eq]
  obtain hcl | hcl := hcl <;> simp only [edges, hcl, ht, Option.map_some]

/-- Settles O48: each class's edges as the classifier gives them, with the target of the field the class reads. -/
theorem classifyReturnsTheClassEdges : Obligations.ClassifyReturnsTheClassEdges := by
  intro s r a rest d hc hd A nx unc ret
  by_cases hrep : d.cfClass = .repeated
  · have he : edges s.params d r.values A = some [] := by rw [edges, hrep]
    rw [hrep, step_of_edges hc hd he, if_pos hrep]
    rfl
  · have hstep (es : List Edge) (he : edges s.params d r.values A = some es) : step s = ret es := by
      rw [step_of_edges hc hd he, if_neg hrep]
    cases hcl : d.cfClass <;> dsimp only
    case none | indBranch | indCall | ret | trap =>
      exact hstep _ (by rw [edges, hcl])
    case loopWait => exact hstep [.taken nx, .notTaken A] (by rw [edges, hcl]; rfl)
    case jumpAbs | callAbs =>
      intro v hv
      exact hstep _ (by simp only [edges, target, hcl, absTarget_of_value hv, Option.map_some])
    case jumpXbank | callXbank =>
      intro v hv
      exact hstep _ (by simp only [edges, target, hcl, xbankTarget_of_value hv, Option.map_some])
    case condXbank =>
      intro v hv
      exact hstep _ (edges_of_conditional (.inr hcl) (by simp only [target, hcl, xbankTarget_of_value hv]))
    case condRel =>
      intro v hv
      refine ⟨fun hb => ?_, fun hb => ?_⟩
      · exact hstep _ (edges_of_conditional (.inl hcl) (by simp only [target, hcl, relTarget_of_current A hb hv]))
      · exact hstep _ (edges_of_conditional (.inl hcl) (by simp only [target, hcl, relTarget_of_next A hb hv]; rfl))
    case repeated => exact absurd hcl hrep

/-! ### Good states -/

theorem recordFits_iff (cat : Catalog) (r : Decoded) :
    recordFits cat r = true ↔
      ∃ d, cat[r.desc]? = some d ∧ ∀ f ∈ d.fields, (lookupField r.values f.name).isSome = true := by
  unfold recordFits
  cases cat[r.desc]? with
  | none => simp
  | some d => simp

/-- Classify answers every record that fits (42_control_flow.md R166). -/
theorem State.Good.exists_step_classify {s : State} (hs : s.Good) {r : Decoded} {a : Nat} {rest : List Call}
    (hc : s.calls = .classify r a :: rest) : ∃ t, step s = .next t := by
  obtain ⟨d, hd, hv⟩ := (recordFits_iff _ _).mp (hs.calls (.classify r a) (by simp [hc]))
  obtain ⟨hclass, -⟩ := hs.catalog d (List.mem_of_getElem? hd)
  obtain ⟨es, he⟩ := Option.isSome_iff_exists.mp (edges_isSome s.params d r.values (s.params.addr a) hclass hv)
  exact ⟨_, step_of_edges hc hd he⟩

/-- Render answers every record that fits, by its failure value where an addressing descriptor is missing
(43_render.md R189). -/
theorem State.Good.exists_step_render {s : State} (hs : s.Good) {r : Decoded} {a : Nat} {rest : List Call}
    (hc : s.calls = .render r a :: rest) : ∃ t, step s = .next t := by
  obtain ⟨d, hd, hv⟩ := (recordFits_iff _ _).mp (hs.calls (.render r a) (by simp [hc]))
  obtain ⟨hclass, hops⟩ := hs.catalog d (List.mem_of_getElem? hd)
  have hr : ∀ q, headRecord s = some q → q = .ok r := by simp [headRecord_render hc]
  cases hu : unresolvedField d r with
  | some f => exact ⟨_, step_of_served hr (.unresolved r a rest r d f hc rfl hd hu)⟩
  | none =>
    obtain ⟨ts, ht⟩ := Option.isSome_iff_exists.mp
      (renderTokens_isSome s.params d r (s.params.addr a) (rarContains s.rar (s.params.addr a)) hv hu hops
        (target_isSome s.params d r.values (s.params.addr a) hclass hv))
    exact ⟨_, step_of_served hr (.rendered r a rest r d ts hc rfl hd hu ht)⟩

/-- Every call of a good state is answered; decode, analyse and resolve are answered in any state. -/
theorem State.Good.exists_step {s : State} (hs : s.Good) : ∃ t, step s = .next t := by
  cases hc : s.calls with
  | nil => exact ⟨s, step_of_served (r := .error (.windowShort 0 none)) (by simp [headRecord, hc]) (.idle hc)⟩
  | cons c rest =>
    cases c with
    | resolve b w =>
      exact ⟨_, step_of_served (r := .error (.windowShort 0 none)) (by simp [headRecord, hc])
        (.resolved b w rest hc)⟩
    | classify r a => exact hs.exists_step_classify hc
    | render r a => exact hs.exists_step_render hc
    | decode w n a =>
      have hr : ∀ q, headRecord s = some q → q = decodeWindow s.params s.cfg s.catalog w n := by
        simp [headRecord, hc]
      cases hw : decodeWindow s.params s.cfg s.catalog w n with
      | error f => exact ⟨_, step_of_served hr (.failed _ rest a f hc rfl hw)⟩
      | ok r => exact ⟨_, step_of_served hr (.decoded w n a rest r hc hw)⟩
    | analyse w n a =>
      have hr : ∀ q, headRecord s = some q → q = decodeWindow s.params s.cfg s.catalog w n := by
        simp [headRecord, hc]
      cases hw : decodeWindow s.params s.cfg s.catalog w n with
      | error f => exact ⟨_, step_of_served hr (.failed _ rest a f hc rfl hw)⟩
      | ok r => exact ⟨_, step_of_served hr (.analysed w n a rest r hc hw)⟩

/-- The calls a step leaves pending were pending before, or hand in a record that a decode of this catalog gave. -/
theorem step_calls_fit {s t : State} (hs : ∀ c ∈ s.calls, callFits s.catalog c = true) (h : step s = .next t) :
    ∀ c ∈ t.calls, callFits s.catalog c = true := by
  obtain ⟨x, hx, hserved⟩ := step_next h
  have htail : ∀ c ∈ s.calls.tail, callFits s.catalog c = true := fun c hc => hs c (List.mem_of_mem_tail hc)
  cases hserved with
  | idle _ => exact hs
  | analysed w n a rest q hc hr =>
    have hq : decodeWindow s.params s.cfg s.catalog w n = .ok q := by
      rw [← hr]
      exact hx _ (by simp [headRecord, hc])
    have hfits : recordFits s.catalog q = true := recordFits_of_decode _ _ _ _ _ _ hq
    simpa [callFits, hfits] using htail
  | classified => simpa using htail
  | _ => exact htail

/-- Parameters and catalog are not written, and the registry and the pending calls each keep their form. -/
theorem State.Good.of_step {s t : State} (hs : s.Good) (h : step s = .next t) : t.Good := by
  obtain ⟨-, hcat, hp⟩ := step_config h
  exact ⟨hp ▸ hs.params, hcat ▸ hs.catalog, stepKeepsRegistryForm s t hs.rar h,
    hcat ▸ step_calls_fit hs.calls h⟩

/-- Settles O40: progress and preservation. -/
theorem goodStatesNeverStop : Obligations.GoodStatesNeverStop := by
  intro s hs
  obtain ⟨t, ht⟩ := hs.exists_step
  exact ⟨t, ht, hs.of_step ht⟩

end Sys2Proof.Machine

/-! SUPPORT. Sys2Proof/Proofs/Render.lean: number texts and flag lists, the tokens of each part of an operand, the
stream of a row and its marker, and what a render call returns (43_render.md). -/

namespace Sys2Proof

open Machine

/-! ### Number texts -/

/-- Digit extraction is the library's digit list, which has no leading zeros; more fuel than the number needs plays no
part. -/
theorem digitChars_eq_digits {base : Nat} (hb : 1 < base) {fuel n : Nat} (hn : 0 < n) (hf : n < fuel)
    (acc : List Char) :
    digitChars base fuel n acc = (Nat.digits base n).reverse.map Nat.digitChar ++ acc := by
  induction fuel generalizing n acc with
  | zero => omega
  | succ fuel ih =>
    rw [digitChars]
    split
    next hlt => simp [Nat.digits_of_lt base n hn.ne' hlt]
    next hge =>
      have hpos : 0 < n / base := Nat.div_pos (by omega) (by omega)
      have hdiv : n / base < n := Nat.div_lt_self hn hb
      simp [ih hpos (by omega), Nat.digits_def' hb hn]

/-- Settles O56, by the digits of one extraction in the two bases. -/
theorem numberTextsHaveNoLeadingZeros : Obligations.NumberTextsHaveNoLeadingZeros := by
  refine ⟨fun v hv => ⟨?_, ?_⟩, by decide, by decide, by decide⟩
  · rw [hex, digitChars_eq_digits (by decide) hv v.lt_succ_self, List.append_nil]
  · rw [dec, digitChars_eq_digits (by decide) hv v.lt_succ_self, List.append_nil]

/-! ### Flag lists -/

theorem mem_modeFlags_iff (m : Nat) (name : String) :
    name ∈ modeFlags m ↔ ∃ k, flagNames[k]? = some name ∧ m.testBit k = true := by
  simp [modeFlags, List.mem_zipIdx_iff_getElem?]

theorem modeFlags_sublist (m : Nat) : (modeFlags m).Sublist flagNames := by
  have h := (List.filter_sublist (p := fun fi => m.testBit fi.2) (l := flagNames.zipIdx)).map Prod.fst
  rwa [List.zipIdx_map_fst] at h

/-- A name stands for one bit (30_encoding.md R80). -/
theorem flagNames_index_inj {j k : Nat} {name : String} (hj : flagNames[j]? = some name)
    (hk : flagNames[k]? = some name) : j = k := by
  have hlen : j < flagNames.length := (List.getElem?_eq_some_iff.mp hj).1
  exact (List.getElem?_inj hlen (by decide)).mp (hj.trans hk.symm)

theorem modeTokens_length (m : Nat) : (modeTokens m).length = 2 * (modeFlags m).length - 1 := by
  rw [modeTokens, List.length_intersperse, List.length_map]

theorem modeTokens_getElem?_even {m k : Nat} {name : String} (h : (modeFlags m)[k]? = some name) :
    (modeTokens m)[2 * k]? = some ⟨.flag, name⟩ := by
  rw [modeTokens, List.getElem?_intersperse_two_mul, List.getElem?_map, h, Option.map_some]

theorem modeTokens_getElem?_odd {m k : Nat} (h : k + 1 < (modeFlags m).length) :
    (modeTokens m)[2 * k + 1]? = some ⟨.sep, ", "⟩ := by
  rw [modeTokens, List.getElem?_intersperse_two_mul_add_one (by rwa [List.length_map])]

/-- Settles O58: the flags are a filter of the names in bit order, and the tokens are those names interspersed. -/
theorem flagListInAscendingBitOrder : Obligations.FlagListInAscendingBitOrder := by
  refine fun m => ⟨fun k name hk => ?_, modeFlags_sublist m, modeTokens_length m,
    fun k => ⟨fun name => modeTokens_getElem?_even, modeTokens_getElem?_odd⟩⟩
  rw [mem_modeFlags_iff]
  constructor
  · rintro ⟨j, hj, hbit⟩
    exact flagNames_index_inj hj hk ▸ hbit
  · exact fun hbit => ⟨k, hk, hbit⟩

/-! ### Location fields without a descriptor -/

theorem isLoc_kind_iff (f : Field) : (f.kind = .loc16 ∨ f.kind = .loc32) ↔ ∃ w, IsLoc f w := by
  simp [IsLoc, exists_or]

/-- The test that render makes of a field: a location field without its descriptor (43_render.md R189). -/
def lacksLoc (r : Decoded) (f : Field) : Bool := f.kind.locWidth?.isSome && (lookupField r.addr f.name).isNone

theorem lacksLoc_iff (r : Decoded) (f : Field) :
    lacksLoc r f = true ↔ (∃ w, IsLoc f w) ∧ lookupField r.addr f.name = none := by
  simp only [lacksLoc, Bool.and_eq_true, Option.isSome_iff_exists, ← isLoc_iff, Option.isNone_iff_eq_none]

theorem unresolvedField_eq (d : Descriptor) (r : Decoded) :
    unresolvedField d r = (d.fields.find? (lacksLoc r)).map Field.name := by
  unfold unresolvedField lacksLoc
  split
  next f hf => rw [hf, Option.map_some]
  next hnone => rw [hnone, Option.map_none]

theorem unresolvedField_eq_none_iff (d : Descriptor) (r : Decoded) :
    unresolvedField d r = none ↔ ∀ f ∈ d.fields, ∀ w, IsLoc f w → lookupField r.addr f.name ≠ none := by
  simp only [unresolvedField_eq, Option.map_eq_none_iff, List.find?_eq_none, lacksLoc_iff, not_and,
    forall_exists_index, ne_eq]

/-- The search answers the first such field in field order (notes/assumptions/16.md). -/
theorem unresolvedField_of_first {d : Descriptor} {r : Decoded} {pre post : List Field} {f : Field}
    (hfields : d.fields = pre ++ f :: post) (hf : ∃ w, IsLoc f w) (hnone : lookupField r.addr f.name = none)
    (hpre : ∀ g ∈ pre, (∃ w, IsLoc g w) → lookupField r.addr g.name ≠ none) :
    unresolvedField d r = some f.name := by
  have hfind : d.fields.find? (lacksLoc r) = some f := by
    refine List.find?_eq_some_iff_append.mpr ⟨(lacksLoc_iff r f).mpr ⟨hf, hnone⟩, pre, post, hfields, fun g hg => ?_⟩
    rw [Bool.not_eq_true', ← Bool.not_eq_true, lacksLoc_iff]
    exact fun ⟨hloc, hlacks⟩ => hpre g hg hloc hlacks
  rw [unresolvedField_eq, hfind, Option.map_some]

/-- A decoded record lacks no addressing descriptor of its own row (40_dispatch.md R109, 60_exceptions.md R259). -/
theorem unresolvedField_of_decode {p : Params} {c : Cfg} {cat : Catalog} {w : Window} {n : Nat} {r : Decoded}
    {d : Descriptor} (h : decodeWindow p c cat w n = .ok r) (hd : cat[r.desc]? = some d) :
    unresolvedField d r = none := by
  obtain ⟨d', hpass, hfin⟩ := decodeWindow_eq_ok p c cat w n r h
  obtain ⟨hd', -, -⟩ := (findRow_eq_some _ _ _ _).mp hpass
  obtain rfl : d = d' := Option.some.inj (hd.symm.trans hd')
  exact unresolvedField_of_finish p c r.desc d _ r hfin

/-! ### The number a field is shown as -/

/-- Outside the two kinds with a table of names, every value that is no negative number is shown as it is. -/
theorem shownNat_of_nonneg (d : Descriptor) {f : Field} {v : Int} (hc : f.kind ≠ .cond) (ha : f.kind ≠ .areg)
    (hv : 0 ≤ v) : shownNat d f v = v.toNat := by
  refine shownNat_of_shows d f v ?_
  unfold FieldKind.shows
  split
  next h => exact absurd h hc
  next h => exact absurd h ha
  next => rfl
  next => exact decide_eq_true hv

theorem shownNat_of_cond (d : Descriptor) {f : Field} {v : Int} (hk : f.kind = .cond) (h0 : 0 ≤ v) (h16 : v < 16) :
    shownNat d f v = v.toNat :=
  shownNat_of_shows d f v (by simp [hk, FieldKind.shows, h0, h16])

/-- An auxiliary register field shows the name of its register (30_encoding.md R81). -/
theorem aregToken_eq (d : Descriptor) {f : Field} {v : Int} (hk : f.kind = .areg) (h0 : 0 ≤ v) (h8 : v < 8) :
    aregToken d f v = ⟨.reg, "AR" ++ dec v.toNat⟩ := by
  have hshown : shownNat d f v = v.toNat := shownNat_of_shows d f v (by simp [hk, FieldKind.shows, h0, h8])
  have hbits : (BitVec.ofNat 3 v.toNat).toNat = v.toNat := by
    rw [BitVec.toNat_ofNat, Nat.mod_eq_of_lt (by omega)]
  rw [aregToken, hshown, Reg.token, Reg.name, hbits]

/-- A signed immediate shows its sign and its magnitude (43_render.md R180). -/
theorem signedHex_of_nonneg {v : Int} (h : 0 ≤ v) : signedHex v = "#" ++ hex v.toNat := if_pos h

theorem signedHex_of_neg {v : Int} (h : v < 0) : signedHex v = "#-" ++ hex (-v).toNat := if_neg (by omega)

/-! ### The tokens of a part -/

/-- The field a name refers to is the one whose assignment is the last (notes/assumptions/25.md). -/
theorem field?_of_lastNamed {d : Descriptor} {f : Field} (h : LastNamed d.fields f) : d.field? f.name = some f := by
  obtain ⟨pre, post, hfields, hpost⟩ := h
  rw [Descriptor.field?, hfields, List.find?_eq_some_iff_append]
  exact ⟨by simp, post.reverse, pre.reverse, by simp, fun g hg => by simpa using hpost g (List.mem_reverse.mp hg)⟩

section Parts

variable {s : State} {d : Descriptor} {r : Decoded} {A : Nat}

/-- The target of the statements is the one the class computes (42_control_flow.md R154 to R156, R169). -/
theorem target_of_targetIs {t : Nat} (h : TargetIs s d r A t) :
    d.cfClass.hasTarget = true ∧ target s.params d r.values A = some t := by
  unfold TargetIs at h
  unfold target
  cases hcl : d.cfClass <;> rw [hcl] at h
  case condRel =>
    obtain ⟨v, hv, ⟨hb, rfl⟩ | ⟨hb, rfl⟩⟩ := h
    · exact ⟨rfl, relTarget_of_current A hb hv⟩
    · exact ⟨rfl, relTarget_of_next A hb hv⟩
  case jumpAbs | callAbs =>
    obtain ⟨v, hv, rfl⟩ := h
    exact ⟨rfl, absTarget_of_value hv⟩
  case jumpXbank | condXbank | callXbank =>
    obtain ⟨v, hv, rfl⟩ := h
    exact ⟨rfl, xbankTarget_of_value hv⟩
  all_goals exact h.elim

theorem shownAddress_of_targetIs {t : Nat} (h : TargetIs s d r A t) (name : String) (v : Int) :
    shownAddress s.params d r.values A name v = some t := by
  obtain ⟨hclass, ht⟩ := target_of_targetIs h
  rw [shownAddress, if_pos hclass, ht]

/-- A field that shows tokens by the rule of its kind has them in the model (43_render.md R179 to R187). -/
theorem fieldTokens_of_shows {f : Field} {v : Int} {ts : List Token} (h : FieldShows s d r A f v ts) :
    fieldTokens s.params d r A f v = some ts := by
  unfold FieldShows at h
  unfold fieldTokens
  cases hk : f.kind <;> rw [hk] at h
  case loc16 | loc32 =>
    obtain ⟨l, hl, rfl⟩ := h
    exact congrArg (Option.map Loc.tokens) hl
  case rel | abs22 | pma16 =>
    obtain ⟨t, ht, rfl⟩ := h
    exact congrArg (Option.map _) (shownAddress_of_targetIs ht f.name v)
  case cond =>
    obtain ⟨h0, h16, rfl⟩ := h
    simp only [shownNat_of_cond d hk h0 h16]
  case immS =>
    obtain ⟨h0, rfl⟩ | ⟨hneg, rfl⟩ := h
    · simp only [signedHex_of_nonneg h0]
    · simp only [signedHex_of_neg hneg]
  case areg =>
    obtain ⟨h0, h8, rfl⟩ := h
    simp only [aregToken_eq d hk h0 h8]
  case immU | immAddr | immMmio | shift | mode8 =>
    obtain ⟨h0, rfl⟩ := h
    have hshown : shownNat d f v = v.toNat := shownNat_of_nonneg d (by simp [hk]) (by simp [hk]) h0
    simp only [hshown, textToken]

theorem partTokens_of_shows {q : Part} {ts : List Token} (h : PartShows s d r A q ts) :
    partTokens s.params d r A q = some ts := by
  cases q with
  | text t => exact congrArg some (Eq.symm h)
  | reg g => exact congrArg some (Eq.symm h)
  | field name =>
    obtain ⟨f, v, hlast, rfl, hv, hshows⟩ := h
    simp only [partTokens, field?_of_lastNamed hlast, hv, fieldTokens_of_shows hshows]
  | counter name =>
    obtain ⟨f, v, hlast, rfl, hv, hk, h0, h8, rfl⟩ := h
    simp only [partTokens, field?_of_lastNamed hlast, hv, if_pos hk, aregToken_eq d hk h0 h8, textToken]

end Parts

/-! ### The stream of a row -/

theorem concatTokens_eq_flatten {α : Type} {g : α → Option (List Token)} {l : List α} {tss : List (List Token)}
    (h : List.Forall₂ (fun x ts => g x = some ts) l tss) : concatTokens g l = some tss.flatten := by
  induction h with
  | nil => rfl
  | cons hx _ ih => simp only [concatTokens, hx, ih, List.flatten_cons]

/-- One separator between two operands, and none elsewhere (43_render.md R177, R191). -/
theorem operandsTokens_eq_intercalate {p : Params} {d : Descriptor} {r : Decoded} {a : Nat} {os : List (List Part)}
    {tss : List (List Token)} (h : List.Forall₂ (fun o ts => operandTokens p d r a o = some ts) os tss) :
    operandsTokens p d r a os = some (List.intercalate [sepToken] tss) := by
  induction h with
  | nil => rfl
  | cons ho hrest ih =>
    cases hrest with
    | nil => rw [operandsTokens, ho, List.intercalate_singleton]
    | cons => simp only [operandsTokens, ho, ih, List.intercalate_cons_cons, List.append_assoc, List.singleton_append]

theorem operandsTokens_of_shows {s : State} {d : Descriptor} {r : Decoded} {A : Nat} {os : List (List Part)}
    {oss : List (List (List Token))} (h : List.Forall₂ (List.Forall₂ (PartShows s d r A)) os oss) :
    operandsTokens s.params d r A os = some (List.intercalate [sepToken] (oss.map List.flatten)) := by
  refine operandsTokens_eq_intercalate (List.forall₂_map_right_iff.mpr (h.imp fun o tss ho => ?_))
  exact concatTokens_eq_flatten (ho.imp fun q ts => partTokens_of_shows)

/-- The head of the stream, with the registry's answer spelled out (43_render.md R174 to R176). -/
theorem headTokens_eq (p : Params) (d : Descriptor) (ρ : List Nat) (a : Nat) :
    headTokens p d (rarContains ρ a) =
      (if d.repeatable = true ∧ a ∈ ρ then [⟨.marker, "||"⟩, ⟨.text, " "⟩] else []) ++ [⟨.mnemonic, d.mnemonic⟩] ++
        (if d.operands ≠ [] ∨ p.spaceWhenNoOperands = true then [⟨.text, " "⟩] else []) := by
  have hmark : (d.repeatable && rarContains ρ a) = true ↔ d.repeatable = true ∧ a ∈ ρ := by
    rw [Bool.and_eq_true, rarContains_iff]
  have hspace : (d.operands.isEmpty && !p.spaceWhenNoOperands) = true ↔
      ¬ (d.operands ≠ [] ∨ p.spaceWhenNoOperands = true) := by
    simp
  simp only [headTokens, hmark, hspace, ite_not, markerTokens, textToken, List.append_assoc, List.singleton_append]

end Sys2Proof

namespace Sys2Proof.Machine

/-! ### A step that renders -/

/-- A render call whose record has its stream returns it, and changes nothing else (43_render.md R170, R190). -/
theorem step_of_renderTokens {s : State} {r : Decoded} {a : Nat} {rest : List Call} {d : Descriptor} {ts : List Token}
    (hc : s.calls = .render r a :: rest) (hd : s.catalog[r.desc]? = some d) (hu : unresolvedField d r = none)
    (ht : renderTokens s.params d r (lines s a) (rarContains s.rar (lines s a)) = some ts) :
    step s = .next (returned s rest (.rendered (lines s a) d.length ts)) := by
  rw [step_of_served (by simp [headRecord_render hc]) (.rendered r a rest r d ts hc rfl hd hu ht), State.answer, hc]
  rfl

/-- A render call whose record lacks an addressing descriptor returns the failure alone (60_exceptions.md R255). -/
theorem step_of_unresolvedField {s : State} {r : Decoded} {a : Nat} {rest : List Call} {d : Descriptor} {name : String}
    (hc : s.calls = .render r a :: rest) (hd : s.catalog[r.desc]? = some d)
    (hu : unresolvedField d r = some name) :
    step s = .next (returned s rest (.failed (lines s a) (.renderUnresolved name))) := by
  rw [step_of_served (by simp [headRecord_render hc]) (.unresolved r a rest r d name hc rfl hd hu), State.fail,
    State.answer, hc]
  rfl

/-- A step that returns tokens has rendered the record of a render call at the head. -/
theorem rendered_of_returns {s t : State} {A : Nat} {len : Len} {ts : List Token} (h : step s = .next t)
    (ht : t.returns = s.returns ++ [.rendered A len ts]) :
    ∃ r a rest d, s.calls = .render r a :: rest ∧ s.catalog[r.desc]? = some d ∧
      renderTokens s.params d r (lines s a) (rarContains s.rar (lines s a)) = some ts := by
  obtain ⟨x, hx, hs⟩ := step_next h
  cases hs with
  | rendered q' a rest q d ts' hc hr hd hu hts =>
    obtain rfl : q' = q := Except.ok.inj ((hx _ (headRecord_render hc)).trans hr)
    obtain ⟨-, -, rfl⟩ : s.params.addr a = A ∧ d.length = len ∧ ts' = ts := by simpa using ht
    exact ⟨q', a, rest, d, hc, hd, hts⟩
  | _ => simp at ht

/-- Settles O51: the stream begins with the row's head, which asks the registry for the marker. -/
theorem markerExactlyAtRegisteredRepeatable : Obligations.MarkerExactlyAtRegisteredRepeatable := by
  intro s t r a rest d len ts hc hd h ht
  obtain ⟨r', a', rest', d', hc', hd', hts⟩ := rendered_of_returns h ht
  cases hc.symm.trans hc'
  cases hd.symm.trans hd'
  obtain ⟨us, -, rfl⟩ := Option.map_eq_some_iff.mp hts
  rw [headTokens_eq]
  refine ⟨fun hmark => ?_, fun hmark => ?_⟩
  · rw [if_pos hmark]
    exact ⟨_, rfl⟩
  · rw [if_neg hmark]
    exact ⟨_, rfl⟩

/-- Settles O52: the search finds the first field without a descriptor, and none in a decoded record. -/
theorem unresolvedRecordFailsRender : Obligations.UnresolvedRecordFailsRender := by
  simp only [Obligations.UnresolvedRecordFailsRender, isLoc_kind_iff]
  constructor
  · intro s r a rest d pre post f hc hd hfields hf hnone hpre
    exact step_of_unresolvedField hc hd (unresolvedField_of_first hfields hf hnone hpre)
  · intro p c cat w n r d f h hd hmem hf
    obtain ⟨w', hw'⟩ := hf
    exact (unresolvedField_eq_none_iff d r).mp (unresolvedField_of_decode h hd) f hmem w' hw'

/-- Settles O60: no descriptor is missing, each part has its tokens, and the stream is the head and the operands. -/
theorem renderReturnsTheStream : Obligations.RenderReturnsTheStream := by
  intro s r a rest d oss hc hd hloc hparts
  refine step_of_renderTokens hc hd ((unresolvedField_eq_none_iff d r).mpr hloc) ?_
  rw [renderTokens, operandsTokens_of_shows hparts, Option.map_some, headTokens_eq]
  rfl

end Sys2Proof.Machine

/-! SUPPORT. Sys2Proof/Proofs/Catalog.lean: the default catalog against its tables (44_catalog.md sections 1 and 2), and
each row's instruction at the four calls of the host: its record, its edges, its token stream. -/

namespace Sys2Proof

/-! ### The default catalog -/

/-- Settles O6: the table is finite. -/
theorem defaultCatalogRowsAsListed : Obligations.DefaultCatalogRowsAsListed :=
  ⟨by decide, catalogGK_objmodeFree⟩

theorem mem_allowGK_iff (i j : Nat) : (i, j) ∈ allowGK ↔ i = 10 ∧ j = 11 ∨ i = 12 ∧ j = 13 := by
  simp [allowGK]

/-- The rows of an allow-listed pair are EINT and CLRC, or DINT and SETC (44_catalog.md R240). -/
theorem rows_of_mem_allowGK {i j : Nat} {d e : Descriptor} (h : (i, j) ∈ allowGK) (hi : catalogGK[i]? = some d)
    (hj : catalogGK[j]? = some e) : d = rowEint ∧ e = rowClrc ∨ d = rowDint ∧ e = rowSetc := by
  obtain ⟨rfl, rfl⟩ | ⟨rfl, rfl⟩ := (mem_allowGK_iff i j).mp h <;> cases hi <;> cases hj
  · exact .inl ⟨rfl, rfl⟩
  · exact .inr ⟨rfl, rfl⟩

/-- A 2-byte row of the default catalog that matches a first word leaves it to no 4-byte row (44_catalog.md R239). -/
theorem matches_two_eq_false {d e : Descriptor} (hd : d ∈ catalogGK) (he : e ∈ catalogGK) (hd2 : d.length = .two)
    (he4 : e.length = .four) {w : Window} (hw : e.matches (w.opcode .four) = true) :
    d.matches (w.opcode .two) = false := by
  by_contra hmatch
  rw [Bool.not_eq_false] at hmatch
  have hoverlap := overlaps_of_matches (onFirstWord_matches hmatch) hw
  simp [catalogGK_onFirstWord d hd e he hd2 he4] at hoverlap

/-- Settles O9: the catalog is valid, so an overlapping pair is on the list, and the listed pairs are two known ones. -/
theorem defaultCatalogIsValid : Obligations.DefaultCatalogIsValid := by
  refine ⟨Machine.catalogGK_valid, rfl, fun i j d e hij hi hj hlen => ⟨fun hov => ?_, fun hallow => ?_⟩,
    fun i j d e hallow hi hj => ?_, fun d hd e he hd2 he4 w hw => matches_two_eq_false hd he hd2 he4 hw⟩
  · have hmode := (catalogGK_objmodeFree d (List.mem_of_getElem? hi)).1
    obtain ⟨-, hpairs⟩ := (validatorAcceptsExactlyValidCatalogs _ _).mp Machine.catalogGK_valid
    exact (hpairs i j d e hij hi hj hlen (.inr (.inl hmode)) hov).2
  · obtain ⟨rfl, rfl⟩ | ⟨rfl, rfl⟩ := rows_of_mem_allowGK hallow hi hj <;> decide
  · obtain ⟨rfl, rfl⟩ | ⟨rfl, rfl⟩ := rows_of_mem_allowGK hallow hi hj <;> decide

/-- A table word that is an instruction's encoding decodes to it. -/
theorem decodeTableWord_of_encode {nbits w : Nat} {i : Instr} (hi : i.wellFormed Params.default Cfg.c28x.amode = true)
    (hw : tableWindow nbits w = Window.ofBytes (encode i)) : decodeTableWord nbits w = some i := by
  simp only [decodeTableWord, hw, decodeOfEncodeIsTheInstruction Params.default Cfg.c28x i hi]

/-- Settles O18: each word is the encoding of its instruction. -/
theorem writtenWordsDecode : Obligations.WrittenWordsDecode := by
  refine ⟨?_, ?_, ?_, ?_, ?_, ?_, ?_⟩
  all_goals exact decodeTableWord_of_encode (by decide) (by decide)

end Sys2Proof

namespace Sys2Proof.Machine

/-! ### Instructions without a row -/

/-- No row of the default catalog passes the test of a row with an open encoding (44_catalog.md section 3). -/
theorem catalogGK_not_open : ∀ sel ∈ rowsOpen.map Prod.fst, ∀ d ∈ catalogGK, sel d = false := by decide

theorem exec_of_no_row {i : Instr} {s : State} (h : ∀ d ∈ s.catalog, i.selects d = false) :
    exec i s = .refused .noSuchRow := by
  rw [exec_eq_serveRow, serveRow, (findRow_eq_none _ _ _).mpr h]

theorem decodeInstr_ne_of_no_row {p : Params} {c : Cfg} {cat : Catalog} {i : Instr}
    (h : ∀ d ∈ cat, i.selects d = false) (w : Window) (n : Nat) : decodeInstr p c cat w n ≠ .ok (some i) := by
  intro hi
  obtain ⟨r, -, hr⟩ := decodeInstr_eq_some hi
  obtain ⟨k, d, hfind, -⟩ := identify_eq_some p c cat r i hr
  simp [(findRow_eq_none _ _ _).mpr h] at hfind

/-- Settles O36: the search for the instruction's row finds none. -/
theorem instructionWithoutRowIsRefused : Obligations.InstructionWithoutRowIsRefused := by
  refine ⟨fun i s => exec_of_no_row, fun s b v raw i hcat hi => ?_⟩
  have hopen : i.selects ∈ rowsOpen.map Prod.fst := List.mem_map_of_mem (f := Instr.selects) hi
  have hno := catalogGK_not_open _ hopen
  exact ⟨exec_of_no_row (hcat ▸ hno), decodeInstr_ne_of_no_row hno⟩

/-! ### The record of an instruction and its four calls -/

/-- `r` is the record of the instruction `i`: that of its row `d`, first at index `k` of the catalog. -/
structure IsRecord (i : Instr) (s : State) (k : Nat) (d : Descriptor) (r : Decoded) : Prop where
  found : findRow i.selects s.catalog 0 = some (k, d)
  record : finish s.params s.cfg k d (i.wordIn d) = .ok r

section Calls

variable {i : Instr} {s : State} {k : Nat} {d : Descriptor} {r : Decoded}

theorem IsRecord.exec_eq_serve (h : IsRecord i s k d r) : exec i s = serve (.ok r) s := by
  rw [exec_eq_serveRow, serveRow, h.found]
  exact congrArg (serve · s) h.record

theorem IsRecord.row (h : IsRecord i s k d r) : s.catalog[r.desc]? = some d ∧ r.length = d.length := by
  obtain ⟨hk, -, -⟩ := (findRow_eq_some _ _ _ _).mp h.found
  obtain ⟨locs, -, rfl⟩ := (finish_eq_ok _ _ _ _ _ _).mp h.record
  exact ⟨hk, rfl⟩

/-- An instruction with its record completes when the record has its edges and its stream. -/
theorem IsRecord.completes (h : IsRecord i s k d r) {a : Nat} {es : List Edge}
    (hes : edges s.params d r.values (lines s a) = some es) {rar' : List Nat}
    (hrar : (if d.cfClass = .repeated then rarInsert (nextAddr s.params d (lines s a)) s.rar else s.rar) = rar')
    {ts : List Token} (hts : renderTokens s.params d r (lines s a) (rarContains s.rar (lines s a)) = some ts) :
    Completes i s a r es rar' ts := by
  obtain ⟨hrow, hlen⟩ := h.row
  have hresolved := unresolvedField_of_finish _ _ _ _ _ _ h.record
  rw [Completes, h.exec_eq_serve, hlen]
  refine ⟨fun w n rest hc => ?_, fun w n rest hc => ?_, fun q rest hc => ?_, fun q rest hc => ?_⟩
  · rw [(serve_eq_next_iff _ _ _).mpr (.decoded w n a rest r hc rfl), State.answer, hc]
    rfl
  · rw [(serve_eq_next_iff _ _ _).mpr (.analysed w n a rest r hc rfl), State.answer, hc]
    rfl
  · rw [(serve_eq_next_iff _ _ _).mpr (.classified q a rest r d es hc rfl hrow hes), noteRepeat_eq, State.answer, hc,
      ← hrar]
    rfl
  · rw [(serve_eq_next_iff _ _ _).mpr (.rendered q a rest r d ts hc rfl hrow hresolved hts), State.answer, hc]
    rfl

end Calls

/-! ### The row of an instruction in a catalog -/

/-- The first row that satisfies a condition satisfies it. -/
theorem FirstAt.holds {cat : Catalog} {P : Descriptor → Prop} {k : Nat} {d : Descriptor} (h : FirstAt cat P k d) :
    P d := h.2.1

theorem findRow_of_firstAt {cat : Catalog} {P : Descriptor → Prop} {sel : Descriptor → Bool}
    (hsel : ∀ e, sel e = true ↔ P e) {k : Nat} {d : Descriptor} (h : FirstAt cat P k d) :
    findRow sel cat 0 = some (k, d) := by
  obtain ⟨hk, hd, hfirst⟩ := h
  refine (findRow_eq_some _ _ _ _).mpr ⟨hk, (hsel d).mpr hd, fun j hj e he => ?_⟩
  rw [← Bool.not_eq_true, hsel]
  exact hfirst j hj e he

theorem findRow_of_rowAt {cat : Catalog} {row : Descriptor} {k : Nat} (h : RowAt cat row k) :
    findRow (isRow row) cat 0 = some (k, row) := by
  obtain ⟨hk, hfirst⟩ := h
  refine findRow_of_firstAt (P := (· = row)) (fun e => decide_eq_true_iff) ⟨hk, rfl, fun j hj e he heq => ?_⟩
  exact hfirst j hj (heq ▸ he)

theorem isNamed_iff (m : String) (c : CfClass) (d : Descriptor) :
    isNamed m c d = true ↔ d.mnemonic = m ∧ d.cfClass = c := by
  simp [isNamed]

theorem isNamedRel_iff (m : String) (base : RelBase) (d : Descriptor) :
    isNamedRel m base d = true ↔ d.mnemonic = m ∧ d.cfClass = .condRel ∧ d.relBase = some base := by
  simp [isNamedRel, isNamed_iff, and_assoc]

theorem isLoopRow_iff (m : String) (d : Descriptor) :
    isLoopRow m d = true ↔ d.mnemonic = m ∧ d.cfClass = .loopWait ∧ d.length = .four ∧
      d.fields = [⟨"loc", 16, 8, .loc16⟩, ⟨"imm16", 0, 16, .immU⟩] ∧
      d.operands = [[.field "loc"], [.field "imm16"]] := by
  simp only [isLoopRow, isNamed_iff, Bool.and_eq_true, decide_eq_true_iff, and_assoc]
  rfl

end Sys2Proof.Machine

namespace Sys2Proof

open Machine

/-! ### The record of a word from its operands -/

/-- The signed reading of a bit vector, also of the empty one (00_scope.md R13; notes/assumptions/30.md). -/
theorem sext_toNat_eq_toInt {w : Nat} (v : BitVec w) : sext w v.toNat = v.toInt := by
  cases w with
  | zero => simp [sext, BitVec.of_length_zero (x := v)]
  | succ n => exact sext_toNat _ v n.succ_pos

/-- The value that a field gives an operand put into it (30_encoding.md R75). -/
def Field.reading (f : Field) (v : BitVec f.width) : Int := if f.kind.signed then v.toInt else v.toNat

theorem value_of_get {f : Field} {op : Op32} {v : BitVec f.width} (h : f.get op = v.toNat) :
    f.value op = f.reading v := by
  rw [Field.value, Field.reading, h, sext_toNat_eq_toInt]

/-- The addressing form a field gives an operand put into it: the one its byte resolves to for a location field, and
none for any other (40_dispatch.md R108). -/
inductive Field.Located (p : Params) (c : Cfg) (f : Field) (v : BitVec f.width) : Option Loc → Prop
  | plain (h : f.kind.locWidth? = none) : Located p c f v none
  | loc {w : LocWidth} {l : Loc} (h : f.kind.locWidth? = some w)
      (hl : resolve p c.amode w (v.setWidth 8) = some l) : Located p c f v (some l)

theorem extractField_of_located {p : Params} {c : Cfg} {op : Op32} {f : Field} {v : BitVec f.width} {l : Option Loc}
    (hget : f.get op = v.toNat) (h : f.Located p c v l) : extractField p c op f = .ok l := by
  cases h with
  | plain h => exact extractField_of_not_loc ((locWidth?_eq_none_iff f).mp h)
  | loc h hl => exact extractField_of_resolve ((isLoc_iff _ _).mpr h) (by rwa [locByte, hget, BitVec.ofNat_toNat])

section Finish

variable {p : Params} {c : Cfg} {d : Descriptor} (k : Nat)

theorem finish_of_no_field (hf : d.fields = []) (op : Op32) :
    finish p c k d op = .ok ⟨k, d.length, op, [], []⟩ := by
  simp [finish, hf, extractLocs, extractValues, assigned, applyObj]

/-- The record of a row with one field, in the low bits. -/
theorem finish_of_one_field (hwf : d.wf = true) (hobj : d.objSensitive = false) {f : Field} (hf : d.fields = [f])
    (hlo : f.lo = 0) (v : BitVec f.width) {l : Option Loc} (hl : f.Located p c v l) :
    finish p c k d (d.assemble [v.toNat]) =
      .ok ⟨k, d.length, d.opcode ||| v.setWidth 32, [(f.name, f.reading v)], (l.map (f.name, ·)).toList⟩ := by
  have hget : f.get (d.assemble [v.toNat]) = v.toNat := by
    rw [get_assemble hwf (n := 0) (by rw [hf]; rfl) rfl, Nat.mod_eq_of_lt v.isLt]
  have hword : d.assemble [v.toNat] = d.opcode ||| v.setWidth 32 := by
    rw [assemble_one d f v hf, hlo, BitVec.shiftLeft_zero]
  have hvalue := value_of_get hget
  have hloc := extractField_of_located hget hl
  rw [hword] at hvalue hloc ⊢
  cases l <;> simp [finish, hf, extractLocs, hloc, extractValues, hvalue, applyObj, hobj, assigned, lookupField]

/-- The record of a row with two fields, the second one in the low bits and no location field. -/
theorem finish_of_two_fields (hwf : d.wf = true) (hobj : d.objSensitive = false) {f g : Field} (hf : d.fields = [f, g])
    (hlo : g.lo = 0) (hname : f.name ≠ g.name) (hg : g.kind.locWidth? = none) (v : BitVec f.width) (u : BitVec g.width)
    {l : Option Loc} (hl : f.Located p c v l) :
    finish p c k d (d.assemble [v.toNat, u.toNat]) =
      .ok ⟨k, d.length, d.opcode ||| v.setWidth 32 <<< f.lo ||| u.setWidth 32,
        [(f.name, f.reading v), (g.name, g.reading u)], (l.map (f.name, ·)).toList⟩ := by
  have hfget : f.get (d.assemble [v.toNat, u.toNat]) = v.toNat := by
    rw [get_assemble hwf (n := 0) (by rw [hf]; rfl) rfl, Nat.mod_eq_of_lt v.isLt]
  have hgget : g.get (d.assemble [v.toNat, u.toNat]) = u.toNat := by
    rw [get_assemble hwf (n := 1) (by rw [hf]; rfl) rfl, Nat.mod_eq_of_lt u.isLt]
  have hword : d.assemble [v.toNat, u.toNat] = d.opcode ||| v.setWidth 32 <<< f.lo ||| u.setWidth 32 := by
    rw [assemble_two d f g v u hf, hlo, BitVec.shiftLeft_zero]
  have hfvalue := value_of_get hfget
  have hgvalue := value_of_get hgget
  have hfloc := extractField_of_located hfget hl
  have hgloc := extractField_of_located hgget (.plain (p := p) (c := c) (v := u) hg)
  rw [hword] at hfvalue hgvalue hfloc hgloc ⊢
  cases l <;> simp [finish, hf, extractLocs, hfloc, hgloc, extractValues, hfvalue, hgvalue, applyObj, hobj, assigned,
    lookupField, hname.symm]

end Finish

end Sys2Proof

namespace Sys2Proof.Machine

/-! ### The records of the default catalog's rows -/

section Rows

variable {i : Instr} {s : State} {k : Nat} {d : Descriptor}

theorem IsRecord.of_no_field (hrow : RowAt s.catalog d k) (hf : d.fields = []) (hsel : i.selects = isRow d)
    (hword : i.wordIn d = d.assemble []) : IsRecord i s k d ⟨k, d.length, d.opcode, [], []⟩ := by
  refine ⟨hsel ▸ findRow_of_rowAt hrow, ?_⟩
  rw [hword, finish_of_no_field k hf, Descriptor.assemble, List.zip_nil_right, List.foldl_nil]

theorem IsRecord.of_one_field (hrow : RowAt s.catalog d k) (hd : d ∈ catalogGK) {f : Field} (hf : d.fields = [f])
    (hlo : f.lo = 0) (v : BitVec f.width) (hsel : i.selects = isRow d) (hword : i.wordIn d = d.assemble [v.toNat])
    {l : Option Loc} (hl : f.Located s.params s.cfg v l) :
    IsRecord i s k d
      ⟨k, d.length, d.opcode ||| v.setWidth 32, [(f.name, f.reading v)], (l.map (f.name, ·)).toList⟩ :=
  ⟨hsel ▸ findRow_of_rowAt hrow, hword ▸ finish_of_one_field k (Laws.catalogGK_wf d hd) (catalogGK_objmodeFree d hd).2
    hf hlo v hl⟩

theorem IsRecord.of_two_fields (hrow : RowAt s.catalog d k) (hd : d ∈ catalogGK) {f g : Field} (hf : d.fields = [f, g])
    (hlo : g.lo = 0) (hname : f.name ≠ g.name) (hg : g.kind.locWidth? = none) (v : BitVec f.width) (u : BitVec g.width)
    (hsel : i.selects = isRow d) (hword : i.wordIn d = d.assemble [v.toNat, u.toNat])
    {l : Option Loc} (hl : f.Located s.params s.cfg v l) :
    IsRecord i s k d
      ⟨k, d.length, d.opcode ||| v.setWidth 32 <<< f.lo ||| u.setWidth 32,
        [(f.name, f.reading v), (g.name, g.reading u)], (l.map (f.name, ·)).toList⟩ :=
  ⟨hsel ▸ findRow_of_rowAt hrow, hword ▸ finish_of_two_fields k (Laws.catalogGK_wf d hd)
    (catalogGK_objmodeFree d hd).2 hf hlo hname hg v u hl⟩

end Rows

/-! ### The stream of a row by its operands -/

section Streams

variable {s : State} {d : Descriptor} {r : Decoded} {a : Nat}

/-- The marker of a row: it asks the registry where it is repeatable (43_render.md R174). -/
def rowMarker (s : State) (d : Descriptor) (a : Nat) : List Token := if d.repeatable = true then markerAt s a else []

theorem rowMarker_eq (s : State) (d : Descriptor) (a : Nat) :
    rowMarker s d a =
      if d.repeatable = true ∧ lines s a ∈ s.rar then [⟨.marker, "||"⟩, ⟨.text, " "⟩] else [] := by
  rw [rowMarker, markerAt, ite_and]

theorem renderTokens_of_no_operand (ho : d.operands = []) :
    renderTokens s.params d r (lines s a) (rarContains s.rar (lines s a)) =
      some (rowMarker s d a ++ bareTokens s d.mnemonic) := by
  rw [renderTokens, ho, operandsTokens, Option.map_some, headTokens_eq, ← rowMarker_eq, ho]
  simp [bareTokens]

theorem renderTokens_of_operands {ts : List Token} (hne : d.operands ≠ [])
    (ho : operandsTokens s.params d r (lines s a) d.operands = some ts) :
    renderTokens s.params d r (lines s a) (rarContains s.rar (lines s a)) =
      some (rowMarker s d a ++ mnemonicTokens d.mnemonic ++ ts) := by
  rw [renderTokens, ho, Option.map_some, headTokens_eq, ← rowMarker_eq, if_pos (.inl hne)]
  simp [mnemonicTokens]

theorem renderTokens_of_one_operand {o : List Part} (ho : d.operands = [o]) {ts : List Token}
    (hts : operandTokens s.params d r (lines s a) o = some ts) :
    renderTokens s.params d r (lines s a) (rarContains s.rar (lines s a)) =
      some (rowMarker s d a ++ mnemonicTokens d.mnemonic ++ ts) :=
  renderTokens_of_operands (by simp [ho]) (by rw [ho, operandsTokens, hts])

theorem renderTokens_of_two_operands {o o' : List Part} (ho : d.operands = [o, o']) {ts us : List Token}
    (hts : operandTokens s.params d r (lines s a) o = some ts)
    (hus : operandTokens s.params d r (lines s a) o' = some us) :
    renderTokens s.params d r (lines s a) (rarContains s.rar (lines s a)) =
      some (rowMarker s d a ++ mnemonicTokens d.mnemonic ++ (ts ++ ⟨.sep, ", "⟩ :: us)) :=
  renderTokens_of_operands (by simp [ho]) (by simp only [ho, operandsTokens, hts, hus, sepToken])

variable {A : Nat} {f : Field}

theorem fieldShows_loc {w : LocWidth} (hk : IsLoc f w) {l : Loc} (hl : lookupField r.addr f.name = some l) (v : Int) :
    FieldShows s d r A f v l.tokens := by
  obtain ⟨hk, -⟩ | ⟨hk, -⟩ := hk <;> simp [FieldShows, hk, hl]

theorem fieldShows_immU (hk : f.kind = .immU) (n : Nat) : FieldShows s d r A f n [⟨.intU, "#" ++ hex n⟩] := by
  simp [FieldShows, hk]

theorem fieldShows_immMmio (hk : f.kind = .immMmio) (n : Nat) :
    FieldShows s d r A f n [⟨.mmio, "*(" ++ hex n ++ ")"⟩] := by
  simp [FieldShows, hk]

theorem fieldShows_shift (hk : f.kind = .shift) (n : Nat) :
    FieldShows s d r A f n [⟨.text, " << "⟩, ⟨.intU, "#" ++ dec n⟩] := by
  simp [FieldShows, hk]

theorem fieldShows_mode8 (hk : f.kind = .mode8) (n : Nat) : FieldShows s d r A f n (modeTokens n) := by
  simp [FieldShows, hk]

theorem fieldShows_cond (hk : f.kind = .cond) (n : BitVec 4) :
    FieldShows s d r A f n.toNat [⟨.cond, condName n.toNat⟩] := by
  have hn := n.isLt
  simp only [FieldShows, hk]
  exact ⟨Int.natCast_nonneg _, by omega, rfl⟩

theorem fieldShows_target (hk : f.kind = .rel ∨ f.kind = .abs22) {t : Nat} (ht : TargetIs s d r A t) (v : Int) :
    FieldShows s d r A f v [⟨.addr, hex t⟩] := by
  obtain hk | hk := hk <;> simp only [FieldShows, hk] <;> exact ⟨t, ht, rfl⟩

theorem operandTokens_of_one_part {q : Part} {ts : List Token} (h : partTokens s.params d r A q = some ts) :
    operandTokens s.params d r A [q] = some ts := by
  simp [operandTokens, concatTokens, h]

theorem operandTokens_of_two_parts {q q' : Part} {ts us : List Token} (h : partTokens s.params d r A q = some ts)
    (h' : partTokens s.params d r A q' = some us) : operandTokens s.params d r A [q, q'] = some (ts ++ us) := by
  simp [operandTokens, concatTokens, h, h']

theorem partTokens_of_field {name : String} {f : Field} {v : Int} (hf : d.field? name = some f)
    (hv : lookupField r.values name = some v) {ts : List Token} (h : FieldShows s d r A f v ts) :
    partTokens s.params d r A (.field name) = some ts := by
  simp only [partTokens, hf, hv, fieldTokens_of_shows h]

theorem operandTokens_of_field {name : String} {f : Field} {v : Int} (hf : d.field? name = some f)
    (hv : lookupField r.values name = some v) {ts : List Token} (h : FieldShows s d r A f v ts) :
    operandTokens s.params d r A (operandField name) = some ts :=
  operandTokens_of_one_part (partTokens_of_field hf hv h)

/-- The operand that shows the target (43_render.md R181). -/
theorem operandTokens_of_target {name : String} {f : Field} {v : Int} (hf : d.field? name = some f)
    (hv : lookupField r.values name = some v) (hk : f.kind = .rel ∨ f.kind = .abs22) {t : Nat}
    (ht : TargetIs s d r A t) : operandTokens s.params d r A (operandField name) = some [⟨.addr, hex t⟩] :=
  operandTokens_of_field hf hv (fieldShows_target hk ht v)

theorem operandTokens_of_reg (g : Reg) : operandTokens s.params d r A (operandReg g) = some [⟨.reg, g.name⟩] :=
  operandTokens_of_one_part rfl

/-- A counter shows its register and a post-decrement (43_render.md R187). -/
theorem operandTokens_of_counter {name : String} {f : Field} (hf : d.field? name = some f) (hk : f.kind = .areg)
    (n : BitVec 3) (hv : lookupField r.values name = some (n.toNat : Int)) :
    operandTokens s.params d r A [.counter name] = some [⟨.reg, "AR" ++ dec n.toNat⟩, ⟨.text, "--"⟩] := by
  have hn := n.isLt
  have htoken : aregToken d f (n.toNat : Int) = ⟨.reg, "AR" ++ dec n.toNat⟩ :=
    aregToken_eq d hk (Int.natCast_nonneg _) (by omega)
  refine operandTokens_of_one_part ?_
  simp only [partTokens, hf, hv, if_pos hk, htoken, textToken]

end Streams

/-! ### The edges of a row by its target -/

section Edges

variable {s : State} {d : Descriptor} {r : Decoded} {A t : Nat}

theorem edges_of_jump (hcl : d.cfClass = .jumpAbs ∨ d.cfClass = .jumpXbank) (ht : TargetIs s d r A t) :
    edges s.params d r.values A = some [.unconditional t] := by
  obtain hcl | hcl := hcl <;> simp only [edges, hcl, (target_of_targetIs ht).2, Option.map_some]

theorem edges_of_call (hcl : d.cfClass = .callAbs ∨ d.cfClass = .callXbank) (ht : TargetIs s d r A t) :
    edges s.params d r.values A = some [.call t] := by
  obtain hcl | hcl := hcl <;> simp only [edges, hcl, (target_of_targetIs ht).2, Option.map_some]

/-- The literal immediate, on the address lines (42_control_flow.md R155; notes/assumptions/7.md). -/
theorem targetIs_abs (hcl : d.cfClass = .jumpAbs ∨ d.cfClass = .callAbs) {n : Nat}
    (hv : valueOfKind d r.values .abs22 = some (n : Int)) : TargetIs s d r A (lines s n) := by
  have hlines : lines s n = s.params.addrAdd 0 n := by
    zify
    rw [addrAdd_cast]
    simp
  obtain hcl | hcl := hcl <;> simp only [TargetIs, hcl] <;> exact ⟨n, hv, hlines⟩

theorem targetIs_current (hcl : d.cfClass = .condRel) (hb : d.relBase = some .current) {v : Int}
    (hv : valueOfKind d r.values .rel = some v) : TargetIs s d r A (s.params.addrAdd A v) := by
  simp only [TargetIs, hcl]
  exact ⟨v, hv, .inl ⟨hb, rfl⟩⟩

theorem targetIs_next (hcl : d.cfClass = .condRel) (hb : d.relBase = some .next) {v : Int}
    (hv : valueOfKind d r.values .rel = some v) :
    TargetIs s d r A (s.params.addrAdd (s.params.addrAdd A d.length.bytes) v) := by
  simp only [TargetIs, hcl]
  exact ⟨v, hv, .inr ⟨hb, rfl⟩⟩

theorem targetIs_xbank (hcl : d.cfClass = .jumpXbank ∨ d.cfClass = .condXbank ∨ d.cfClass = .callXbank) {v : Int}
    (hv : valueOfKind d r.values .pma16 = some v) : TargetIs s d r A (s.params.addrAdd s.params.xbank.toNat v) := by
  obtain hcl | hcl | hcl := hcl <;> simp only [TargetIs, hcl] <;> exact ⟨v, hv, rfl⟩

theorem conditionalEdges_congr {P Q : Prop} [Decidable P] [Decidable Q] (h : P ↔ Q) (t nx : Nat) :
    conditionalEdges s P t nx = conditionalEdges s Q t nx := by
  simp only [conditionalEdges, h]

/-- The edges of a conditional row with a 4-bit condition field (42_control_flow.md R157). -/
theorem edges_of_condition (hcl : d.cfClass = .condRel ∨ d.cfClass = .condXbank) (ht : TargetIs s d r A t)
    {cond : BitVec 4} (hcond : valueOfKind d r.values .cond = some (cond.toNat : Int)) :
    edges s.params d r.values A = some (conditionalEdges s (cond = 15) t (nextAddr s.params d A)) := by
  rw [edges_of_conditional hcl (target_of_targetIs ht).2, hcond]
  refine congrArg some (conditionalEdges_congr ?_ _ _)
  rw [Option.some_inj, ← BitVec.toNat_inj]
  exact Int.ofNat_inj

/-- A conditional row without a condition field has the pair in every case. -/
theorem edges_of_no_condition (hcl : d.cfClass = .condRel ∨ d.cfClass = .condXbank) (ht : TargetIs s d r A t)
    (hcond : valueOfKind d r.values .cond = none) :
    edges s.params d r.values A = some [.taken t, .notTaken (nextAddr s.params d A)] := by
  rw [edges_of_conditional hcl (target_of_targetIs ht).2, hcond]
  simp [conditionalEdges]

/-- A row with its edges has its target, where its class computes one. -/
theorem target_isSome_of_edges {es : List Edge} (h : edges s.params d r.values A = some es)
    (hcl : d.cfClass.hasTarget = true) : (target s.params d r.values A).isSome = true := by
  by_contra hnone
  rw [Option.not_isSome_iff_eq_none] at hnone
  cases hc : d.cfClass <;> simp [hc, CfClass.hasTarget, edges, hnone] at hcl h

end Edges

/-! ### The rows of the default catalog -/

/-- Settles O24: the nine rows differ in opcode, mnemonic and class alone. -/
theorem rowsWithoutFieldsComplete : Obligations.RowsWithoutFieldsComplete := by
  intro s a k i row op m es hmem hrow
  simp only [List.mem_cons, Prod.mk.injEq, List.not_mem_nil, or_false] at hmem
  rcases hmem with ⟨rfl, rfl, rfl, rfl, rfl⟩ | ⟨rfl, rfl, rfl, rfl, rfl⟩ | ⟨rfl, rfl, rfl, rfl, rfl⟩ |
    ⟨rfl, rfl, rfl, rfl, rfl⟩ | ⟨rfl, rfl, rfl, rfl, rfl⟩ | ⟨rfl, rfl, rfl, rfl, rfl⟩ | ⟨rfl, rfl, rfl, rfl, rfl⟩ |
    ⟨rfl, rfl, rfl, rfl, rfl⟩ | ⟨rfl, rfl, rfl, rfl, rfl⟩
  all_goals exact (IsRecord.of_no_field hrow rfl rfl rfl).completes rfl rfl (renderTokens_of_no_operand rfl)

/-- Settles O25: the one row without an operand that is repeatable. -/
theorem nopCompletes : Obligations.NopCompletes := fun _ _ _ hrow =>
  (IsRecord.of_no_field hrow rfl rfl rfl).completes rfl rfl (renderTokens_of_no_operand rfl)

/-- Settles O26: rows with at most two fields, none of them a location. -/
theorem immediateAndFlagRowsComplete : Obligations.ImmediateAndFlagRowsComplete := by
  intro s a k
  refine ⟨fun n hrow => ?trap, fun hrow => ?lb, fun m hrow => ?clrc, fun m hrow => ?setc, fun v hrow => ?addb,
    fun sh v hrow => ?mov⟩
  case trap =>
    exact (IsRecord.of_one_field hrow (by decide) rfl rfl n rfl rfl (.plain rfl)).completes rfl rfl
      (renderTokens_of_one_operand rfl (operandTokens_of_field rfl rfl (fieldShows_immU rfl n.toNat)))
  case lb =>
    exact (IsRecord.of_no_field hrow rfl rfl rfl).completes rfl rfl
      (renderTokens_of_one_operand rfl (operandTokens_of_two_parts (ts := [⟨.text, "*"⟩]) rfl rfl))
  case clrc | setc =>
    exact (IsRecord.of_one_field hrow (by decide) rfl rfl m rfl rfl (.plain rfl)).completes rfl rfl
      (renderTokens_of_one_operand rfl (operandTokens_of_field rfl rfl (fieldShows_mode8 rfl m.toNat)))
  case addb =>
    exact (IsRecord.of_one_field hrow (by decide) rfl rfl v rfl rfl (.plain rfl)).completes rfl rfl
      (renderTokens_of_two_operands rfl (operandTokens_of_reg .acc)
        (operandTokens_of_field rfl rfl (fieldShows_immU rfl v.toNat)))
  case mov =>
    exact (IsRecord.of_two_fields hrow (by decide) rfl rfl (by decide) rfl sh v rfl rfl (.plain rfl)).completes rfl rfl
      (renderTokens_of_two_operands rfl (operandTokens_of_reg .acc)
        (operandTokens_of_two_parts (partTokens_of_field rfl rfl (fieldShows_immU rfl v.toNat))
          (partTokens_of_field rfl rfl (fieldShows_shift rfl sh.toNat))))

/-- Settles O27: the edges and the listing read one target. -/
theorem pcRelativeRowsComplete : Obligations.PcRelativeRowsComplete := by
  intro s a k
  refine ⟨fun cond off hrow => ?sb, fun n off hrow => ?banz, fun cond off hrow => ?b⟩
  case sb =>
    exact (IsRecord.of_two_fields hrow (by decide) rfl rfl (by decide) rfl cond off rfl rfl (.plain rfl)).completes
      (edges_of_condition (.inl rfl) (targetIs_current rfl rfl rfl) rfl) rfl
      (renderTokens_of_two_operands rfl
        (operandTokens_of_target rfl rfl (.inl rfl) (targetIs_current rfl rfl rfl))
        (operandTokens_of_field rfl rfl (fieldShows_cond rfl cond)))
  case banz =>
    exact (IsRecord.of_two_fields hrow (by decide) rfl rfl (by decide) rfl n off rfl rfl (.plain rfl)).completes
      (edges_of_no_condition (.inl rfl) (targetIs_next rfl rfl rfl) rfl) rfl
      (renderTokens_of_two_operands rfl
        (operandTokens_of_target rfl rfl (.inl rfl) (targetIs_next rfl rfl rfl))
        (operandTokens_of_counter rfl rfl n rfl))
  case b =>
    exact (IsRecord.of_two_fields hrow (by decide) rfl rfl (by decide) rfl cond off rfl rfl (.plain rfl)).completes
      (edges_of_condition (.inl rfl) (targetIs_next rfl rfl rfl) rfl) rfl
      (renderTokens_of_two_operands rfl
        (operandTokens_of_target rfl rfl (.inl rfl) (targetIs_next rfl rfl rfl))
        (operandTokens_of_field rfl rfl (fieldShows_cond rfl cond)))

/-- Settles O28: the target is the literal immediate, which the address plays no part in. -/
theorem absoluteRowsComplete : Obligations.AbsoluteRowsComplete := by
  intro s a k v
  refine ⟨fun hrow => ?lb, fun hrow => ?lc, fun hrow => ?ffc, fun hrow => ?lcr⟩
  case lb =>
    exact (IsRecord.of_one_field hrow (by decide) rfl rfl v rfl rfl (.plain rfl)).completes
      (edges_of_jump (.inl rfl) (targetIs_abs (.inl rfl) rfl)) rfl
      (renderTokens_of_one_operand rfl
        (operandTokens_of_target rfl rfl (.inr rfl) (targetIs_abs (.inl rfl) rfl)))
  case lc =>
    exact (IsRecord.of_one_field hrow (by decide) rfl rfl v rfl rfl (.plain rfl)).completes
      (edges_of_call (.inl rfl) (targetIs_abs (.inr rfl) rfl)) rfl
      (renderTokens_of_one_operand rfl
        (operandTokens_of_target rfl rfl (.inr rfl) (targetIs_abs (.inr rfl) rfl)))
  case ffc =>
    exact (IsRecord.of_one_field hrow (by decide) rfl rfl v rfl rfl (.plain rfl)).completes
      (edges_of_call (.inl rfl) (targetIs_abs (.inr rfl) rfl)) rfl
      (renderTokens_of_two_operands rfl (operandTokens_of_reg (.xar 7))
        (operandTokens_of_target rfl rfl (.inr rfl) (targetIs_abs (.inr rfl) rfl)))
  case lcr =>
    exact (IsRecord.of_one_field hrow (by decide) rfl rfl v rfl rfl (.plain rfl)).completes
      (edges_of_call (.inl rfl) (targetIs_abs (.inr rfl) rfl)) rfl
      (renderTokens_of_one_operand rfl (operandTokens_of_two_parts (ts := [⟨.text, "#"⟩]) rfl
        (partTokens_of_field rfl rfl (fieldShows_target (.inr rfl) (targetIs_abs (.inr rfl) rfl) _))))

/-- Settles O29: a row of class CF_REPEAT inserts the address after it. -/
theorem repeatRowsComplete : Obligations.RepeatRowsComplete := by
  intro s a k
  refine ⟨fun v hrow => ?imm, fun b l hrow hl => ?loc⟩
  case imm =>
    exact (IsRecord.of_one_field hrow (by decide) rfl rfl v rfl rfl (.plain rfl)).completes rfl rfl
      (renderTokens_of_one_operand rfl (operandTokens_of_field rfl rfl (fieldShows_immU rfl v.toNat)))
  case loc =>
    exact (IsRecord.of_one_field hrow (by decide) rfl rfl b rfl rfl (.loc (w := .w16) rfl hl)).completes rfl rfl
      (renderTokens_of_one_operand rfl (operandTokens_of_field rfl rfl (fieldShows_loc (.inl ⟨rfl, rfl⟩) rfl _)))

/-- Settles O30: the byte resolves at the width of the row's one location field. -/
theorem locationRowsComplete : Obligations.LocationRowsComplete := by
  intro s a k b l
  refine ⟨fun hrow hl => ?movl, fun hrow hl => ?movAlLoc, fun hrow hl => ?movAhLoc,
    fun hrow hl => ?movLocAl, fun hrow hl => ?movLocAh, fun pa hrow hl => ?inLoc⟩
  case movl =>
    exact (IsRecord.of_one_field hrow (by decide) rfl rfl b rfl rfl (.loc (w := .w32) rfl hl)).completes rfl rfl
      (renderTokens_of_two_operands rfl (operandTokens_of_reg .acc)
        (operandTokens_of_field rfl rfl (fieldShows_loc (.inr ⟨rfl, rfl⟩) rfl _)))
  case movAlLoc =>
    exact (IsRecord.of_one_field hrow (by decide) rfl rfl b rfl rfl (.loc (w := .w16) rfl hl)).completes rfl rfl
      (renderTokens_of_two_operands rfl (operandTokens_of_reg .al)
        (operandTokens_of_field rfl rfl (fieldShows_loc (.inl ⟨rfl, rfl⟩) rfl _)))
  case movAhLoc =>
    exact (IsRecord.of_one_field hrow (by decide) rfl rfl b rfl rfl (.loc (w := .w16) rfl hl)).completes rfl rfl
      (renderTokens_of_two_operands rfl (operandTokens_of_reg .ah)
        (operandTokens_of_field rfl rfl (fieldShows_loc (.inl ⟨rfl, rfl⟩) rfl _)))
  case movLocAl | movLocAh =>
    rw [List.append_assoc]
    exact (IsRecord.of_one_field hrow (by decide) rfl rfl b rfl rfl (.loc (w := .w16) rfl hl)).completes rfl rfl
      (renderTokens_of_two_operands rfl (operandTokens_of_field rfl rfl (fieldShows_loc (.inl ⟨rfl, rfl⟩) rfl _))
        (operandTokens_of_reg _))
  case inLoc =>
    exact (IsRecord.of_two_fields hrow (by decide) rfl rfl (by decide) rfl b pa rfl rfl
      (.loc (w := .w16) rfl hl)).completes rfl rfl
      (renderTokens_of_two_operands rfl (operandTokens_of_field rfl rfl (fieldShows_loc (.inl ⟨rfl, rfl⟩) rfl _))
        (operandTokens_of_field rfl rfl (fieldShows_immMmio rfl pa.toNat)))

/-! ### The rows with open encodings -/

/-- A loop-wait instruction completes in the first row of its mnemonic and shape (44_catalog.md R226, R227). -/
theorem completes_of_loopAt {s : State} {a k : Nat} {d : Descriptor} {b : Byte} {v : BitVec 16} {l : Loc} {i : Instr}
    {m : String} (hsel : i.selects = isLoopRow m) (hword : i.wordIn d = d.assemble [b.toNat, v.toNat])
    (hrow : LoopAt s.catalog m k d) (hwf : d.wf = true) (hobj : d.objSensitive = false) (hrep : d.repeatable = false)
    (hl : resolve s.params s.cfg.amode .w16 b = some l) :
    Completes i s a
      ⟨k, .four, d.opcode ||| b.setWidth 32 <<< 16 ||| v.setWidth 32,
        [("loc", b.toNat), ("imm16", v.toNat)], [("loc", l)]⟩
      [.taken (s.params.addrAdd (lines s a) 4), .notTaken (lines s a)] s.rar
      (mnemonicTokens m ++ l.tokens ++ [⟨.sep, ", "⟩, ⟨.intU, "#" ++ hex v.toNat⟩]) := by
  obtain ⟨hm, hcl, hlen, hfields, hoperands⟩ := hrow.holds
  have hloc : d.field? "loc" = some ⟨"loc", 16, 8, .loc16⟩ := by rw [Descriptor.field?, hfields]; rfl
  have himm : d.field? "imm16" = some ⟨"imm16", 0, 16, .immU⟩ := by rw [Descriptor.field?, hfields]; rfl
  have hmarker : rowMarker s d a = [] := by rw [rowMarker, hrep]; rfl
  have hrecord : IsRecord i s k d _ := ⟨hsel ▸ findRow_of_firstAt (isLoopRow_iff m) hrow,
    hword ▸ finish_of_two_fields k hwf hobj hfields rfl (by decide) rfl b v (.loc (w := .w16) rfl hl)⟩
  rw [hlen] at hrecord
  refine hrecord.completes ?_ (if_neg (by simp [hcl])) ?_
  · rw [edges, hcl, nextAddr, hlen]
    rfl
  · rw [renderTokens_of_two_operands hoperands
      (operandTokens_of_field hloc rfl (fieldShows_loc (.inl ⟨rfl, rfl⟩) rfl _))
      (operandTokens_of_field himm rfl (fieldShows_immU rfl v.toNat)), hm, hmarker, List.nil_append,
      List.append_assoc]

/-- Settles O32: the two instructions differ in mnemonic alone. -/
theorem loopWaitRowsComplete : Obligations.LoopWaitRowsComplete := by
  intro s a k d b v l i m hmem
  simp only [List.mem_cons, Prod.mk.injEq, List.not_mem_nil, or_false] at hmem
  obtain ⟨rfl, rfl⟩ | ⟨rfl, rfl⟩ := hmem <;> exact completes_of_loopAt rfl rfl

section OpenRows

variable {i : Instr} {s : State} {a k : Nat} {d : Descriptor} {r : Decoded} {m : String} {raw : Op32}

/-- An instruction whose row's operands name the row's own fields has a stream for its record, and completes with it. -/
theorem IsRecord.exists_completes (h : IsRecord i s k d r) (ho : d.operandsOk = true) {es : List Edge}
    (hes : edges s.params d r.values (lines s a) = some es) {rar' : List Nat}
    (hrar : (if d.cfClass = .repeated then rarInsert (nextAddr s.params d (lines s a)) s.rar else s.rar) = rar') :
    ∃ ts, renderTokens s.params d r (lines s a) (rarContains s.rar (lines s a)) = some ts ∧
      Completes i s a r es rar' ts := by
  obtain ⟨ts, hts⟩ := Option.isSome_iff_exists.mp (renderTokens_isSome s.params d r (lines s a)
    (rarContains s.rar (lines s a)) (finish_values_isSome _ _ _ _ _ _ h.record)
    (unresolvedField_of_finish _ _ _ _ _ _ h.record) ho (target_isSome_of_edges hes))
  exact ⟨ts, hts, h.completes hes hrar hts⟩

theorem IsRecord.of_namedAt {cls : CfClass} (hrow : NamedAt s.catalog m cls k d)
    (hfin : finish s.params s.cfg k d raw = .ok r) (hsel : i.selects = isNamed m cls) (hword : i.wordIn d = raw) :
    IsRecord i s k d r :=
  ⟨hsel ▸ findRow_of_firstAt (isNamed_iff m cls) hrow, hword ▸ hfin⟩

/-- A named PC-relative instruction completes in its row, whatever the target of the row's base. -/
theorem exists_completes_of_namedRelAt {base : RelBase} (hrow : NamedRelAt s.catalog m base k d)
    (hfin : finish s.params s.cfg k d raw = .ok r) (hsel : i.selects = isNamedRel m base) (hword : i.wordIn d = raw)
    (ho : d.operandsOk = true) {t : Nat} (ht : TargetIs s d r (lines s a) t) :
    ∃ ts, renderTokens s.params d r (lines s a) (rarContains s.rar (lines s a)) = some ts ∧
      Completes i s a r (conditionalEdges s (valueOfKind d r.values .cond = some 15) t
        (s.params.addrAdd (lines s a) d.length.bytes)) s.rar ts := by
  obtain ⟨-, hcl, -⟩ := hrow.holds
  have hrecord : IsRecord i s k d r := ⟨hsel ▸ findRow_of_firstAt (isNamedRel_iff m base) hrow, hword ▸ hfin⟩
  exact hrecord.exists_completes ho (edges_of_conditional (.inl hcl) (target_of_targetIs ht).2)
    (if_neg (by simp [hcl]))

end OpenRows

/-- Settles O33: the class fixes the edges and the insert. -/
theorem openRowsWithoutTargetComplete : Obligations.OpenRowsWithoutTargetComplete := by
  intro s a k d raw r i m cls es hmem hrow ho hfin
  obtain ⟨-, hcl⟩ := hrow.holds
  simp only [List.mem_cons, Prod.mk.injEq, List.not_mem_nil, or_false] at hmem
  rcases hmem with ⟨rfl, rfl, rfl, rfl⟩ | ⟨rfl, rfl, rfl, rfl⟩ | ⟨rfl, rfl, rfl, rfl⟩ | ⟨rfl, rfl, rfl, rfl⟩ |
    ⟨rfl, rfl, rfl, rfl⟩
  all_goals
    exact (IsRecord.of_namedAt hrow hfin rfl rfl).exists_completes ho (by rw [edges, hcl]) (by rw [hcl, nextAddr])

/-- Settles O34: the target of the three classes is XBANK plus the 16-bit immediate. -/
theorem extendedBankRowsComplete : Obligations.ExtendedBankRowsComplete := by
  intro s a k d raw r v ho hfin hv t nx
  refine ⟨fun hrow => ?xbArp, fun hrow => ?xbCond, fun hrow => ?xcallArp⟩
  all_goals obtain ⟨-, hcl⟩ := hrow.holds
  case xbArp =>
    exact (IsRecord.of_namedAt hrow hfin rfl rfl).exists_completes ho
      (edges_of_jump (.inr hcl) (targetIs_xbank (.inl hcl) hv)) (if_neg (by simp [hcl]))
  case xbCond =>
    exact (IsRecord.of_namedAt hrow hfin rfl rfl).exists_completes ho
      (edges_of_conditional (.inr hcl) (target_of_targetIs (targetIs_xbank (.inr (.inl hcl)) hv)).2)
      (if_neg (by simp [hcl]))
  case xcallArp =>
    exact (IsRecord.of_namedAt hrow hfin rfl rfl).exists_completes ho
      (edges_of_call (.inr hcl) (targetIs_xbank (.inr (.inr hcl)) hv)) (if_neg (by simp [hcl]))

/-- Settles O35: the row's base, which its name fixes, gives the target. -/
theorem openRelativeRowsComplete : Obligations.OpenRelativeRowsComplete := by
  intro s a k d raw r v ho hfin hv nx unc
  refine ⟨fun hrow => ?sbf, fun hrow => ?bar, fun hrow => ?bf⟩
  all_goals obtain ⟨-, hcl, hbase⟩ := hrow.holds
  case sbf => exact exists_completes_of_namedRelAt hrow hfin rfl rfl ho (targetIs_current hcl hbase hv)
  case bar | bf => exact exists_completes_of_namedRelAt hrow hfin rfl rfl ho (targetIs_next hcl hbase hv)

end Sys2Proof.Machine

/-! SUPPORT. Sys2Proof/Proofs/Exceptions.lean: a decode that fails, the location byte that does not resolve, and the
step with no call (60_exceptions.md). -/

namespace Sys2Proof

open Machine

/-! ### The failure of a location byte -/

/-- A row whose first field is a location fails where the byte put into that field does not resolve
(60_exceptions.md R253). -/
theorem finish_of_unresolved {p : Params} {c : Cfg} (k : Nat) {d : Descriptor} (hwf : d.wf = true) {f : Field}
    {post : List Field} (hf : d.fields = f :: post) {width : LocWidth} (hloc : f.kind.locWidth? = some width)
    (hbyte : f.width = 8) {b : Byte} (hb : resolve p c.amode width b = none) (vals : List Nat) :
    finish p c k d (d.assemble (b.toNat :: vals)) =
      .error (.addrResolve (d.assemble (b.toNat :: vals)) f.name b c.amode width) := by
  have hget : f.get (d.assemble (b.toNat :: vals)) = b.toNat := by
    rw [get_assemble hwf (n := 0) (by rw [hf]; rfl) rfl, hbyte, Nat.mod_eq_of_lt b.isLt]
  have hlocByte : locByte f (d.assemble (b.toNat :: vals)) = b := by
    rw [locByte, hget, BitVec.ofNat_toNat, BitVec.setWidth_eq]
  exact (finish_eq_error_iff ..).mpr ⟨[], post, f, width, hf, (isLoc_iff f width).mpr hloc, by rwa [hlocByte], by simp,
    by rw [hlocByte]⟩

/-- The word of a 2-byte location row holds the byte in its low bits (44_catalog.md R211 to R216). -/
theorem rowLoc8_assemble (opcode : Op32) (m : String) (kind : FieldKind) (operands : List (List Part)) (cls : CfClass)
    (rep : Bool) (b : Byte) :
    (rowLoc8 opcode m kind operands cls rep).assemble [b.toNat] = opcode ||| b.setWidth 32 :=
  (assemble_one _ (fieldLoc8 kind) b rfl).trans (congrArg (opcode ||| ·) (BitVec.shiftLeft_zero _))

/-- The word of IN holds the location byte above the port address (44_catalog.md R225). -/
theorem rowInLoc_assemble (b : Byte) (pa : BitVec 16) :
    rowInLoc.assemble [b.toNat, pa.toNat] = 0xB4000000#32 ||| b.setWidth 32 <<< 16 ||| pa.setWidth 32 := by
  have hword := assemble_two rowInLoc ⟨"loc", 16, 8, .loc16⟩ ⟨"pa", 0, 16, .immMmio⟩ b pa rfl
  rwa [BitVec.shiftLeft_zero] at hword

end Sys2Proof

namespace Sys2Proof.Machine

/-! ### A call that fails, and no call -/

/-- A decode or analyse call that has met a failure returns it, and that is all (60_exceptions.md R259). -/
theorem served_of_error {s : State} {w : Window} {n a : Nat} {rest : List Call}
    (hc : s.calls = .decode w n a :: rest ∨ s.calls = .analyse w n a :: rest) (f : Failure) :
    Served (.error f) s (returned s rest (.failed (lines s a) f)) := by
  have hfail : s.fail a f = returned s rest (.failed (lines s a) f) := by
    rw [State.fail, State.answer]
    rcases hc with hc | hc <;> rw [hc] <;> rfl
  rw [← hfail]
  rcases hc with hc | hc <;> exact .failed _ rest a f hc rfl rfl

theorem headRecord_decode {s : State} {w : Window} {n a : Nat} {rest : List Call}
    (hc : s.calls = .decode w n a :: rest ∨ s.calls = .analyse w n a :: rest) :
    headRecord s = some (decodeWindow s.params s.cfg s.catalog w n) := by
  rcases hc with hc | hc <;> rw [headRecord, hc]

/-- Settles O47: the head is about the failure itself, for which no record is left to classify. -/
theorem failedDecodeChangesNothing : Obligations.FailedDecodeChangesNothing := by
  intro s w n a rest f hc hf
  exact step_of_served (by simp [headRecord_decode hc, hf]) (served_of_error hc f)

/-- Settles O39: with no call there is no record, and serving none is the idle step. -/
theorem engineIdlesWithoutCall : Obligations.EngineIdlesWithoutCall := by
  intro s hc
  exact step_of_served (r := .error (.windowShort 0 none)) (by simp [headRecord, hc]) (.idle hc)

/-! ### The location rows -/

/-- An instruction of a default row that starts with a location field fails its decode where its byte does not resolve. -/
theorem exec_of_unresolved {i : Instr} {s : State} {k : Nat} {d : Descriptor} (hrow : RowAt s.catalog d k)
    (hd : d ∈ catalogGK) {f : Field} {post : List Field} (hf : d.fields = f :: post) {width : LocWidth}
    (hloc : f.kind.locWidth? = some width) (hbyte : f.width = 8) (hsel : i.selects = isRow d) {b : Byte}
    {vals : List Nat} {raw : Op32} (hword : i.wordIn d = d.assemble (b.toNat :: vals))
    (hraw : d.assemble (b.toNat :: vals) = raw) (hb : resolve s.params s.cfg.amode width b = none)
    {w : Window} {n a : Nat} {rest : List Call}
    (hc : s.calls = .decode w n a :: rest ∨ s.calls = .analyse w n a :: rest) :
    exec i s = .next (returned s rest (.failed (lines s a) (.addrResolve raw f.name b s.cfg.amode width))) := by
  rw [exec_eq_serveRow, serveRow, hsel, findRow_of_rowAt hrow]
  dsimp only
  rw [hword, finish_of_unresolved k (Laws.catalogGK_wf d hd) hf hloc hbyte hb vals, hraw, serve_eq_next_iff]
  exact served_of_error hc _

/-- Settles O31: each of the seven rows starts with its location field, in the low byte or before the port address. -/
theorem unresolvedLocationFailsDecode : Obligations.UnresolvedLocationFailsDecode := by
  intro s a k b w n rest i row raw width pa hmem hrow hb hc
  simp only [List.mem_cons, Prod.mk.injEq, List.not_mem_nil, or_false] at hmem
  rcases hmem with ⟨rfl, rfl, rfl, rfl⟩ | ⟨rfl, rfl, rfl, rfl⟩ | ⟨rfl, rfl, rfl, rfl⟩ | ⟨rfl, rfl, rfl, rfl⟩ |
    ⟨rfl, rfl, rfl, rfl⟩ | ⟨rfl, rfl, rfl, rfl⟩ | ⟨rfl, rfl, rfl, rfl⟩
  iterate 6 exact exec_of_unresolved hrow (by decide) rfl rfl rfl rfl rfl (rowLoc8_assemble _ _ _ _ _ _ b) hb hc
  exact exec_of_unresolved hrow (by decide) rfl rfl rfl rfl rfl (rowInLoc_assemble b pa) hb hc

end Sys2Proof.Machine

/-! SUPPORT. Sys2Proof/Proofs/ResetHazards.lean: creation of an instance and its first state, and the repeat hazard in
both orders of its two calls (70_reset_and_hazards.md). -/

namespace Sys2Proof

/-- A stream without the marker, from a repeatable row, gains it in front (43_render.md R174). -/
theorem renderTokens_marked {p : Params} {d : Descriptor} {r : Decoded} {a : Nat} {ts : List Token}
    (hd : d.repeatable = true) (h : renderTokens p d r a false = some ts) :
    renderTokens p d r a true = some (⟨.marker, "||"⟩ :: ⟨.text, " "⟩ :: ts) := by
  obtain ⟨us, hus, rfl⟩ := Option.map_eq_some_iff.mp h
  simp [renderTokens, hus, headTokens, hd, markerTokens, textToken]

end Sys2Proof

namespace Sys2Proof.Machine

/-! ### Creation and the first state -/

/-- A catalog that the validator rejects gives no instance (70_reset_and_hazards.md R267). -/
theorem create_of_not_valid {cat : Catalog} {allow : List (Nat × Nat)} (h : ¬ cat.valid allow) (c : Cfg)
    (p : Params) : ∃ i j, State.create c p cat allow = .error (.catalogAmbiguous i j) := by
  obtain ⟨⟨i, j⟩, hbad⟩ := Option.ne_none_iff_exists'.mp h
  exact ⟨i, j, by rw [State.create, hbad]⟩

/-- Settles O10, by the two answers of the validator. -/
theorem creationGivesEmptyRegistryOrFails : Obligations.CreationGivesEmptyRegistryOrFails :=
  fun c p _ _ => ⟨fun h => ⟨_, create_of_valid h c p, rfl, rfl, rfl, rfl, rfl, rfl⟩,
    fun h => create_of_not_valid h c p⟩

/-- Every row of the default catalog has the fields its class and its operands read (44_catalog.md). -/
theorem catalogGK_complete : catalogGK.complete := by decide

/-- A new instance over a complete catalog is good: no address is registered, and no call is pending. -/
theorem State.Good.of_empty {s : State} (hp : s.params.wf) (hcat : s.catalog.complete) (hrar : s.rar = [])
    (hcalls : s.calls = []) : s.Good :=
  ⟨hp, hcat, by simp [RarWf, hrar], by simp [hcalls]⟩

/-- Settles O41, over the default parameters and catalog. -/
theorem resetStateIsGood : Obligations.ResetStateIsGood :=
  .of_empty (Nat.succ_pos 63) catalogGK_complete rfl rfl

/-! ### The repeat hazard -/

theorem run_two {s u t : State} (hsu : step s = .next u) (hut : step u = .next t) : core.run 2 s = .next t := by
  simp [Host.Core.run, core, hsu, hut]

/-- An inserted address is a member from then on (10_state.md R27). -/
theorem rarContains_rarInsert_self (a : Nat) (ρ : List Nat) : rarContains (rarInsert a ρ) a = true := by
  rw [rarContains_iff, mem_rarInsert]
  exact .inl rfl

/-- Classify of a repeat row registers the next address and returns no edge (42_control_flow.md R164). -/
theorem step_classify_of_repeated {s : State} {r : Decoded} {a : Nat} {rest : List Call} {d : Descriptor}
    (hc : s.calls = .classify r a :: rest) (hd : s.catalog[r.desc]? = some d) (hcl : d.cfClass = .repeated) :
    step s = .next { returned s rest (.classified (lines s a) d.length []) with
      rar := rarInsert (s.params.addrAdd (lines s a) d.length.bytes) s.rar } := by
  have he : edges s.params d r.values (lines s a) = some [] := by rw [edges, hcl]
  rw [step_of_edges hc hd he, if_pos hcl]
  rfl

/-- Render at an address on the lines, by the registry's one answer `m` (43_render.md R173). -/
theorem step_render_of_rarContains {s : State} {r : Decoded} {b : Nat} {rest : List Call} {d : Descriptor}
    (hc : s.calls = .render r b :: rest) (hd : s.catalog[r.desc]? = some d) (hu : unresolvedField d r = none)
    (hb : b < 2 ^ s.params.addrWidth) {m : Bool} (hm : rarContains s.rar b = m) {ts : List Token}
    (ht : renderTokens s.params d r b m = some ts) :
    step s = .next (returned s rest (.rendered b d.length ts)) := by
  have hlines : lines s b = b := Nat.mod_eq_of_lt hb
  have hstep := step_of_renderTokens (ts := ts) hc hd hu (by rw [hlines, hm, ht])
  rwa [hlines] at hstep

/-- Settles O53: the second call of each order is served in the state the first one leaves, and render sees an insert
only where classify came before it. -/
theorem repeatMarkerFollowsOrderOfCalls : Obligations.RepeatMarkerFollowsOrderOfCalls := by
  intro s rp rn a rest dp dn ts hp hcl hn hrep hu b ht cl marked plain
  have hb : b < 2 ^ s.params.addrWidth := addrAdd_lt _ _ _
  constructor
  · intro hc
    have hclassify := step_classify_of_repeated hc hp hcl
    have hrender := step_render_of_rarContains
      (s := { returned s (.render rn b :: rest) cl with rar := rarInsert b s.rar })
      rfl hn hu hb (rarContains_rarInsert_self b s.rar) (renderTokens_marked hrep ht)
    simpa only [returned, List.append_assoc, List.cons_append, List.nil_append] using run_two hclassify hrender
  · intro hc hnot
    have hm : rarContains s.rar b = false := by rwa [← Bool.not_eq_true, rarContains_iff]
    have hrender := step_render_of_rarContains hc hn hu hb hm ht
    have hclassify := step_classify_of_repeated (s := returned s (.classify rp a :: rest) plain) rfl hp hcl
    simpa only [returned, List.append_assoc, List.cons_append, List.nil_append] using run_two hrender hclassify

end Sys2Proof.Machine
